-- ==== Sys2Proof/Word.lean ====
section
/-! DEFINITION. The words of the part: bytes, 16-bit and 32-bit fields, the index types of the floor (00_scope.md
section 5.6), and the fixed-length tables that are indexed by them. -/

namespace Sys2Proof

abbrev Byte := BitVec 8
abbrev Word16 := BitVec 16
abbrev Word32 := BitVec 32

/-- Cabinets 0–31, load groups 0–7, strings 0–127, consoles 0–3, work order slots 0–7, and a string's position 0–3
in its cabinet's list (00_scope.md section 5.6). -/
abbrev Cab := Fin 32
abbrev Grp := Fin 8
abbrev Str := Fin 128
abbrev Con := Fin 4
abbrev Slot := Fin 8
abbrev Pos := Fin 4

/-- A table with one entry per index. -/
abbrev Tab (n : Nat) (α : Type) := Vector α n

namespace Tab

def at' {n : Nat} {α : Type} (t : Tab n α) (i : Fin n) : α := t[i.val]
def put {n : Nat} {α : Type} (t : Tab n α) (i : Fin n) (x : α) : Tab n α := t.set i.val x
def fill {α : Type} (n : Nat) (x : α) : Tab n α := Vector.replicate n x
def gen {n : Nat} {α : Type} (f : Fin n → α) : Tab n α := ⟨(List.ofFn f).toArray, by simp⟩

@[simp] theorem at'_put {n : Nat} {α : Type} (t : Tab n α) (i j : Fin n) (x : α) :
    (t.put i x).at' j = if i = j then x else t.at' j := by
  simp [at', put, Vector.getElem_set, Fin.ext_iff]

@[simp] theorem at'_gen {n : Nat} {α : Type} (f : Fin n → α) (i : Fin n) : (gen f).at' i = f i := by
  simp [at', gen]

@[simp] theorem at'_fill {n : Nat} {α : Type} (x : α) (i : Fin n) : (fill n x).at' i = x := by
  simp [at', fill]

end Tab

/-- `f` applied `n` times. -/
def iterate {α : Type} (f : α → α) : Nat → α → α
  | 0, x => x
  | n + 1, x => iterate f n (f x)

end Sys2Proof
end

