-- ==== Sys2Proof/Config.lean ====
section
/-! DEFINITION. What is fixed for one machine: the size of record memory, the reading of memory no one has written,
and the free values, which no proof can see into. -/

namespace Sys2Proof.Config

/-- Record memory occupies 000000h–0FFFFFh (00_scope.md section 3). -/
def memorySize : Nat := 0x100000

/-- The config window occupies 000000h–0003FFh (R25). -/
def windowSize : Nat := 0x400

/-- What a byte of record memory that no port and no internal write has written reads as. DESIGN CHOICE, unsafe
(notes/assumptions/1.md): the spec gives record memory no contents before its first use. -/
def emptyByte : Byte := 0

/-- FREE VALUE (notes/assumptions/2.md): the byte a read returns from a position that a write answered FAULT, or a
write cut off by reset, has left undefined (R14, R22, R23). It is applied to a counter that advances at every such
read, since "a later read may return any value in those positions". -/
opaque freeByte : Nat → Byte

/-- FREE VALUE (notes/assumptions/16.md): how many operations of the access that RESET cuts off record memory had answered
OK; the next one is in progress (R14, R23 (5)). It is applied to the counter of `freeByte`, which advances at every such
reset. -/
opaque operationsAnswered : Nat → Nat

/-- FREE VALUE (notes/assumptions/3.md): what recall makes of a flag byte in a journal header whose code is neither
00h nor 01h; R179 judges the header usable without looking at it. -/
opaque unlistedLostMark : Byte → Bool

/-- FREE VALUE (notes/assumptions/4.md): the capacity in percent of a test that completes on a string of rated
capacity 0. R133 divides by the rated capacity and names no value for 0. -/
opaque capacityOfUnratedString : Word32 → Word16

/-- FREE VALUE (notes/assumptions/7.md): the value of a journal entry that carries the last landed floor sequence of a
cabinet that has none, by the cabinet's number. -/
opaque valueOfNoSequence : Byte → Word32

/-- FREE VALUE (notes/assumptions/8.md): the generation that CONFIG_REJECTED carries when the read of the generation
itself was answered FAULT, by the floor clock of the entry. -/
opaque generationUnread : Word32 → Word16

end Sys2Proof.Config
end

