-- ==== Sys2Proof/Syntax.lean ====
section
/-! DEFINITION. The commands: one constructor of `Instr` for each row of spec/opcode_table.json, in the table's
order, and the types of their operands. -/

namespace Sys2Proof

/-- The three access links (R4). -/
inductive Port where
  | sup | cab | svc
  deriving DecidableEq, Repr

/-- Record memory's answer to one operation (R14). -/
inductive MemAnswer where
  | ok | fault
  deriving DecidableEq, Repr

/-- Record memory's answers to the operations of one port access (R14, R15): all OK, or FAULT to the operation that
follows `after` operations answered OK. Where the access has no operation at that index, the last one is answered
FAULT. -/
inductive AccessAnswer where
  | ok
  | fault (after : Nat)
  deriving DecidableEq, Repr

/-- The steps of the part, each whole and indivisible (95_what_each_step_holds.md). A step named for a granted access
carries no operand: the access is the queue head that the arbiter chooses (R17). -/
inductive Instr where
  | frameReceived (port : Port) (frame : List Byte)
  | portRead
  | plainWrite
  | configWindowWrite
  | cabinetStatus
  | toBypass
  | toOnline
  | testStart
  | testStop
  | measurement
  | visitOpen
  | visitClose
  | visitReplace
  | visitRetire
  | orderOffer
  | orderWithdraw
  | orderClear
  | consumedJournalIndex
  | clockSet
  | flushRequest
  | faultClear
  | portAccessComplete (answer : AccessAnswer)
  | internalGrant
  | applyReadComplete (answer : MemAnswer)
  | recallReadComplete (answer : MemAnswer)
  | writerWriteComplete (answer : MemAnswer)
  | clockAdvance
  | staleTimerExpiry (c : Cab)
  | commandTimerExpiry (c : Cab)
  | groupTestTimerExpiry (g : Grp)
  | idleWarnTimerExpiry (t : Con)
  | idleEndTimerExpiry (t : Con)
  | durationTimerExpiry (t : Con)
  | flushTimerExpiry
  | keyToLocked
  | keyToService
  | reset
  | resetRelease
  | pfwAssert
  | pfwDeassert
  deriving DecidableEq, Repr

end Sys2Proof
end

