-- ==== Sys2Proof/WellFormed.lean ====
section
/-! DEFINITION. The checks a command passes as syntax. Cabinet, group and console numbers are bounded by their
types, so only two commands can be ill-formed. `exec` is total: an ill-formed command is a term no link and no memory
can produce, and the claims that need the bound state it. -/

namespace Sys2Proof

/-- A write granted byte by byte covers at most 256 bytes (R6), so it is carried as at most 128 runs (R33). -/
def maxRuns : Nat := 128

namespace Instr

/-- A link carries whole frames (01 section 1.1), so a frame holds at least one byte; and no access has an operation
after its 128th. -/
def WellFormed : Instr → Bool
  | frameReceived _ frame => frame.length ≠ 0
  | portAccessComplete (.fault after) => after < maxRuns
  | portAccessComplete .ok
  | portRead | plainWrite | configWindowWrite | cabinetStatus | toBypass | toOnline | testStart | testStop
  | measurement | visitOpen | visitClose | visitReplace | visitRetire | orderOffer | orderWithdraw | orderClear
  | consumedJournalIndex | clockSet | flushRequest | faultClear | internalGrant | applyReadComplete _
  | recallReadComplete _ | writerWriteComplete _ | clockAdvance | staleTimerExpiry _ | commandTimerExpiry _
  | groupTestTimerExpiry _ | idleWarnTimerExpiry _ | idleEndTimerExpiry _ | durationTimerExpiry _
  | flushTimerExpiry | keyToLocked | keyToService | reset | resetRelease | pfwAssert | pfwDeassert => true

end Instr

end Sys2Proof
end

