-- ==== Sys2Proof/Machine/Bytes.lean ====
section
/-! DEFINITION. Byte order, check bytes and the frame check: fields of byte lists read and written little-endian
(00_scope.md section 5.2), the 8-bit sum of R1, and the CRC of R45. -/

namespace Sys2Proof.Machine

/-- The byte at an offset of a record. Every record read is as long as its table, so the default is never used. -/
def byteAt (l : List Byte) (i : Nat) : Byte := l.getD i 0

def u8 (l : List Byte) (i : Nat) : Nat := (byteAt l i).toNat

def word16At (l : List Byte) (i : Nat) : Word16 := byteAt l (i + 1) ++ byteAt l i

def u16 (l : List Byte) (i : Nat) : Nat := (word16At l i).toNat

def u24 (l : List Byte) (i : Nat) : Nat := u8 l i + 0x100 * u8 l (i + 1) + 0x10000 * u8 l (i + 2)

def word32At (l : List Byte) (i : Nat) : Word32 := word16At l (i + 2) ++ word16At l i

def u32 (l : List Byte) (i : Nat) : Nat := (word32At l i).toNat

/-- `n` bytes from offset `i`. -/
def slice (l : List Byte) (i n : Nat) : List Byte := (l.drop i).take n

def le16 (w : Word16) : List Byte := [w.extractLsb' 0 8, w.extractLsb' 8 8]

def le32 (w : Word32) : List Byte :=
  [w.extractLsb' 0 8, w.extractLsb' 8 8, w.extractLsb' 16 8, w.extractLsb' 24 8]

def zeros (n : Nat) : List Byte := List.replicate n 0

/-- A byte holding a number below 256. -/
def byteOf (n : Nat) : Byte := BitVec.ofNat 8 n

def bit (b : Bool) : Byte := if b then 1 else 0

/-- The 8-bit sum of bytes (R1). -/
def sum8 (l : List Byte) : Byte := l.foldl (· + ·) 0

/-- A record that carries a check byte is valid when the 8-bit sum of all of its bytes, the check byte included, is
00h (R1). -/
def checkHolds (l : List Byte) : Bool := sum8 l = 0

/-- A record's bytes with the check byte that makes their sum 00h (R162). -/
def withCheck (body : List Byte) : List Byte := body ++ [-sum8 body]

/-- One shift of the frame check register by the generator x^16 + x^12 + x^5 + 1 (R45). -/
def crcShift (r : Word16) : Word16 := if r.msb then (r <<< 1) ^^^ 0x1021 else r <<< 1

/-- One byte into the register, most significant bit first (R45). -/
def crcByte (r : Word16) (b : Byte) : Word16 := iterate crcShift 8 (r ^^^ (b.zeroExtend 16 <<< 8))

/-- The frame check of a frame's preceding bytes (R45): the register starts at FFFFh and is used without inversion. -/
def crc (l : List Byte) : Word16 := l.foldl crcByte 0xFFFF

/-- A frame's bytes with its frame check, low byte first (R45). -/
def withCrc (body : List Byte) : List Byte := body ++ le16 (crc body)

end Sys2Proof.Machine
end

