-- ==== Sys2Proof/Machine/State.lean ====
section
/-! DEFINITION. Everything the spec gives the part, as plain data: port queues and arbiter (01), loader and floor clock
(03), cabinet and group tables (04), interlock (05), string table (06), test controller (07), visits and work orders
(08), record writer (09), recall and drain (10), the plain lines (00 section 4), record memory, and the queue of
commands waiting. Each block's state stands in one structure; the constants below them are the reset values. -/

namespace Sys2Proof.Machine

/-! ## Names -/

/-- Kinds of access (Table 1.1(1)). -/
inductive Kind where
  | read | write
  deriving DecidableEq, Repr

/-- The KEY input (R142). -/
inductive Key where
  | locked | service
  deriving DecidableEq, Repr

/-- The four requesters of the arbiter, in cyclic order (R17). -/
inductive Requester where
  | sup | cab | svc | internal
  deriving DecidableEq, Repr

/-- What the part as a whole is doing: RESET asserted or power-on (R23), start-up recall (R173), running (the NOMAP
state included), draining after PFW (R181), waiting after PFW for the operation in progress before HALTED (R183), and
HALTED (R182). -/
inductive RunMode where
  | inReset | recalling | running | draining | halting | halted
  deriving DecidableEq, Repr

/-- The seven typed areas, in the order of their base fields (Table 2.12(4)). -/
inductive Area where
  | cabstat | cabcmd | measure | visit | workord | ctrl | state
  deriving DecidableEq, Repr

/-- A plain region's attribute for one port (R27). -/
inductive Attr where
  | none | read | write | both
  deriving DecidableEq, Repr

/-- Reported modes (Table 2.12(6)). -/
inductive CabMode where
  | onlineInverter | onBattery | staticBypass | maintBypass | off | fault
  deriving DecidableEq, Repr

/-- Utility states (Table 2.12(6)). -/
inductive Utility where
  | ok | lost
  deriving DecidableEq, Repr

/-- Floor results (Table 2.12(6)). -/
inductive FloorResult where
  | accepted | declined
  deriving DecidableEq, Repr

/-- Transfer machine states (Table 5.5(1)). -/
inductive Xfer where
  | absent | learning | normal | xferOut | bypass | xferBack | unsanctioned
  deriving DecidableEq, Repr

/-- Floor commands with the argument of the test commands (Table 2.12(7)). -/
inductive FloorCmd where
  | toBypass | toOnline | testStart (p : Pos) | testStop (p : Pos)
  deriving DecidableEq, Repr

/-- Supervisor commands (Table 2.12(7)). -/
inductive SupCmd where
  | testStop | testSuspend | testResume
  deriving DecidableEq, Repr

/-- Refusal reasons (Table 2.12(2)). -/
inductive Reason where
  | nomap | range | denied | key | locked | shape | busy | interlock | scope | state | memfault
  deriving DecidableEq, Repr

/-- Cause codes (Table 2.12(3)). -/
inductive Cause where
  | absent | notFresh | notNormal | noVisit | groupLimit | testActive | margin | groupBusy
  | utilityLoss | notInBypass | retired | noPermission | outOfScope | scopeOverlap | clock
  | window | notOffered | orderSpent | orderInUse | badgeInUse | visitActive | cabinetHeld
  deriving DecidableEq, Repr

/-- Measurement modes (Table 2.12(8)). `unlisted` keeps a code that no measurement can carry and that recall finds in
a string record whose checks all hold (notes/assumptions/5.md). -/
inductive MeasMode where
  | float | discharge | recharge | testDischarge | testHold | opened
  | unlisted (code : Byte)
  deriving DecidableEq, Repr

/-- Ageing states (Table 6.5(1)). -/
inductive AgeState where
  | unverified | healthy | watch | due | retired
  deriving DecidableEq, Repr

/-- Test states (Table 7.1(1)). -/
inductive TestState where
  | idle | requested | running | suspendPending | suspended | resumePending | stopping
  deriving DecidableEq, Repr

/-- Who started a test (Table 2.12(12)). `unlisted`: as for `MeasMode`. -/
inductive Starter where
  | none | sup | console (t : Con) | unlisted (code : Byte)
  deriving DecidableEq, Repr

/-- Last test results (Table 2.12(12)). `unlisted`: as for `MeasMode`. -/
inductive TestResult where
  | none | passed | failed | declined | aborted | unlisted (code : Byte)
  deriving DecidableEq, Repr

/-- Abort causes (Table 2.12(12)). `unlisted`: as for `MeasMode`. -/
inductive AbortCause where
  | none | stopped | timeout | duration | suspendLimit | conditions | reset | cabinet | unlisted (code : Byte)
  deriving DecidableEq, Repr

/-- Group states (Table 2.12(13)). -/
inductive GroupState where
  | learning | normal | deficit | utilityLoss
  deriving DecidableEq, Repr

/-- Visit states (Table 2.12(13)). -/
inductive VisitState where
  | none | opened | warned | ended
  deriving DecidableEq, Repr

/-- Visit end reasons (Table 2.12(13)). `unlisted`: as for `MeasMode`. -/
inductive EndReason where
  | none | closed | idle | duration | key | revoked | reset | power | unlisted (code : Byte)
  deriving DecidableEq, Repr

/-- Work order slot states (Table 2.12(13)). -/
inductive OrderState where
  | empty | offered | inUse | spent | withdrawn
  deriving DecidableEq, Repr

/-- Permissions (Table 2.12(10)). -/
inductive Perm where
  | bypass | test | replace | retire
  deriving DecidableEq, Repr

/-- Last apply results (Table 2.12(11)). -/
inductive ApplyResult where
  | none | applied | invalid | busyState
  deriving DecidableEq, Repr

/-- Part status (Table 2.12(11)). -/
inductive PartStatus where
  | running | halted
  deriving DecidableEq, Repr

/-- Severities, lowest first (R170). -/
inductive Severity where
  | info | notice | warning | critical
  deriving DecidableEq, Repr

/-- Journal entry kinds (Table 2.12(16)). -/
inductive JKind where
  | start | powerWarn | configApplied | configRejected | clockSet | lost | writerFault
  | cabStale | cabFresh | marginLost | marginRestored | utilityLost | utilityRestored
  | xferGranted | xferRefused | xferDeclined | xferTimeout | returnTimeout | bypassEntered | bypassLeft
  | adopted | unsanctioned | ageState | unplannedTest | testStarted | testSuspended | testEnded | noAck
  | visitOpened | visitWarned | visitEnded
  deriving DecidableEq, Repr

/-- The part records of the STATE area (Table 9.1(1)); journal entries and supervisor halves are named apart. -/
inductive RecId where
  | header | cabinet (c : Cab) | group (g : Grp) | visit (t : Con) | order (n : Slot) | spentList | journalHeader
  | string (s : Str)
  deriving DecidableEq, Repr

/-- A timer: stopped, or running with the seconds left (R3). A running timer with 0 left has expired, and its expiry
event has not been taken. -/
abbrev Timer := Option Nat

/-! ## Ports and arbiter (01) -/

/-- A queue entry (R6). -/
structure Access where
  port : Port
  kind : Kind
  txn : BitVec 4
  tag : Byte
  addr : Nat
  len : Nat
  data : List Byte
  deriving DecidableEq, Repr

/-- The three port queues, head first. -/
structure Queues where
  sup : List Access
  cab : List Access
  svc : List Access
  deriving DecidableEq, Repr

/-- One operation of the memory port (R14). -/
inductive MemOp where
  | read (addr len : Nat)
  | write (addr : Nat) (bytes : List Byte)
  deriving DecidableEq, Repr

/-! ## Configuration (03) -/

/-- A plain region entry (R27); `size` is its size code. -/
structure Region where
  base : Nat
  size : Nat
  sup : Attr
  cab : Attr
  svc : Attr
  deriving DecidableEq, Repr

/-- A group entry of the configuration block. -/
structure GroupCfg where
  redundancy : Nat
  headroom : Nat
  limit : Nat
  deriving DecidableEq, Repr

/-- A cabinet entry of the configuration block. -/
structure CabCfg where
  present : Bool
  group : Grp
  rated : Nat
  minUsable : Nat
  strings : Tab 4 (Option Str)
  deriving DecidableEq, Repr

/-- The fields of a configuration block (Table 2.12(4)), as the units read them. -/
structure Block where
  generation : Word16
  lock : Bool
  attention : Nat
  bases : Tab 7 Nat
  regions : Tab 8 Region
  staleTime : Nat
  commandTime : Nat
  testMinutes : Nat
  idleWarn : Nat
  idleEnd : Nat
  flushTime : Nat
  deepThreshold : Nat
  passCapacity : Nat
  cyclesWatch : Nat
  cyclesDue : Nat
  thermalWatch : Nat
  thermalDue : Nat
  deepWatch : Nat
  deepDue : Nat
  capacityWatch : Nat
  capacityDue : Nat
  groups : Tab 8 GroupCfg
  cabs : Tab 32 CabCfg
  capacities : Tab 128 Nat
  deriving DecidableEq, Repr

/-- One read of an apply (R47, R48): a quarter of the block, half of a moved CABCMD, or a moved WORKORD. -/
inductive LoaderRead where
  | block (i : Fin 4)
  | cabcmd (base : Nat) (half : Fin 2)
  | workord (base : Nat)
  deriving DecidableEq, Repr

/-- An apply in READING: its read list, and the bytes read so far (R46 (3)). -/
structure Apply where
  todo : List LoaderRead
  block : List Byte
  commands : List Byte
  orders : List Byte
  deriving DecidableEq, Repr

/-! ## Cabinets and groups (04, 05, 07) -/

/-- The fields of a taken status record (Table 2.12(6)). -/
structure StatusRec where
  mode : CabMode
  utility : Utility
  result : FloorResult
  load : Word16
  floorAck : Byte
  supAck : Byte
  deriving DecidableEq, Repr

/-- What a cabinet last reported, while a report is held (Table 4.1(1)). -/
structure Report where
  mode : CabMode
  utility : Utility
  deriving DecidableEq, Repr

/-- One cabinet: the tracker's fields (R67) that are no configuration, the interlock's (R84), and the test
controller's (R126). -/
structure CabEntry where
  fresh : Bool
  staleTimer : Timer
  report : Option Report
  load : Word16
  usableCount : Nat
  supporting : Bool
  machine : Xfer
  holder : Option Con
  lastSeq : Option Byte
  lastCmd : Option FloorCmd
  outstanding : Bool
  cmdTimer : Timer
  refusal : Option Cause
  refusalTime : Word32
  supSeq : Option Byte
  supCmd : Option (SupCmd × Pos)
  supAwaited : Bool
  deriving DecidableEq, Repr

/-- One group: the group table's fields (R75) that are no configuration, and the group test timer (R138). -/
structure GroupEntry where
  state : GroupState
  load : Nat
  supCount : Nat
  margin : Int
  bypassCount : Nat
  underTest : Option Str
  testTimer : Timer
  deriving DecidableEq, Repr

/-! ## Strings (06, 07) -/

/-- The fields of a taken measurement that the part uses (Table 2.12(8)). -/
structure MeasRec where
  seq : Byte
  mode : MeasMode
  interval : Word16
  temperature : Word16
  chargeOut : Word32
  lowBlock : Word16
  deriving DecidableEq, Repr

/-- A string's test fields (Table 7.1(2)). The awaited stop is none, a floor sequence, a supervisor sequence, or
both. -/
structure TestFields where
  state : TestState
  charge : Word32
  suspensions : Nat
  starter : Starter
  result : TestResult
  cause : AbortCause
  awaitFloor : Option Byte
  awaitSup : Option Byte
  deriving DecidableEq, Repr

/-- A string table entry (R107). Its owner follows from the active configuration (R108) and is not stored. -/
structure StringEntry where
  rated : Word16
  install : Word32
  discharged : Word32
  thermal : Word32
  remainder : BitVec 3
  deepCount : Byte
  episode : Bool
  lastCapacity : Option Word16
  lastSeq : Option Byte
  lastMode : Option MeasMode
  age : AgeState
  usable : Bool
  test : TestFields
  deriving DecidableEq, Repr

/-! ## Visits and work orders (08) -/

/-- A visit's last result: status, reason and detail as in the reply (Table 2.12(13)). -/
structure VisitResult where
  status : Byte
  reason : Byte
  detail : Byte
  deriving DecidableEq, Repr

/-- A visit table entry (R148). Absent order, badge, scope and permissions are 0 (notes/assumptions/45.md). -/
structure Visit where
  state : VisitState
  order : Word32
  badge : Word32
  scope : Word32
  perms : Byte
  openTime : Word32
  activity : Word32
  reason : EndReason
  lastReq : Option Byte
  lastResult : Option VisitResult
  warnTimer : Timer
  endTimer : Timer
  durTimer : Timer
  deriving DecidableEq, Repr

/-- A work order table entry (R143). An absent order is number 0 with every term 0 (notes/assumptions/45.md). -/
structure Order where
  state : OrderState
  number : Word32
  scope : Word32
  perms : Byte
  windowStart : Word32
  windowEnd : Word32
  maxMinutes : Word16
  bound : Option Con
  deriving DecidableEq, Repr

/-- The terms an OFFER carries (Table 2.12(10)). -/
structure OrderTerms where
  number : Word32
  scope : Word32
  perms : Byte
  windowStart : Word32
  windowEnd : Word32
  maxMinutes : Word16
  deriving DecidableEq, Repr

/-! ## Record writer (09) -/

/-- A journal entry's 16 bytes as fields (Table 2.12(15)). -/
structure JEntry where
  seq : Word32
  time : Word32
  kind : Byte
  severity : Byte
  subject : Byte
  detail : Byte
  value : Word32
  deriving DecidableEq, Repr

/-- An entry as it is created, before it takes a sequence and a position (R167, R172). -/
structure RawEntry where
  time : Word32
  kind : JKind
  severity : Severity
  subject : Byte
  detail : Byte
  value : Word32
  deriving DecidableEq, Repr

/-- An entry that joined the pending list before the journal head was established: no sequence and no position yet
(R172); `stamp` is that of its joining. -/
structure HeldEntry where
  entry : RawEntry
  stamp : Nat
  deriving DecidableEq, Repr

/-- An unconsumed entry of the journal copy with its ring position; `givenUp` marks one given up at start-up recall
(R171, R179). -/
structure CopyEntry where
  pos : Byte
  entry : JEntry
  givenUp : Bool
  deriving DecidableEq, Repr

/-- An entry of the pending journal list; `stamp` orders it against the urgent places (R164 (3)). -/
structure PendEntry where
  pos : Byte
  entry : JEntry
  stamp : Nat
  deriving DecidableEq, Repr

/-- A place of the urgent set and the stamp of its joining. -/
structure Place where
  what : RecId
  stamp : Nat
  deriving DecidableEq, Repr

/-- The journal head (R161 (3)). -/
structure JHead where
  nextSeq : Word32
  nextPos : Byte
  unconsumed : Nat
  lost : Bool
  deriving DecidableEq, Repr

/-- One write of the record writer: a part record, a supervisor half, a pending journal entry, an entry of the rewrite
span, or the HALTED header that ends the drain (R182). -/
inductive WriterJob where
  | record (r : RecId)
  | half (c : Cab)
  | pending (e : PendEntry)
  | span (e : CopyEntry)
  | haltedHeader
  deriving DecidableEq, Repr

/-- The record writer's state (R161). `held` and `heldDrop` are the pending list's entries, and the drop, of the time
before the journal head is established (R172): the list is the held entries, then `pending`. `stamp` is the next joining
stamp of the urgent set and of the pending list. `barred` and `barredHalves` are the records and the supervisor halves
that faulted twice in the drain (R182 (1)). -/
structure Writer where
  urgent : List Place
  lazySet : List RecId
  half : Tab 32 Bool
  barred : List RecId
  barredHalves : List Cab
  pending : List PendEntry
  held : List HeldEntry
  heldDrop : Bool
  head : Option JHead
  copy : List CopyEntry
  span : List CopyEntry
  retry : Option WriterJob
  latch : Bool
  flushTimer : Timer
  attn : Bool
  status : PartStatus
  applyResult : ApplyResult
  failOffset : Word16
  headerGen : Word16
  stamp : Nat
  deriving DecidableEq, Repr

/-! ## Recall (10) -/

/-- The reads of start-up recall (Table 10.1(1)). -/
inductive RecallRead where
  | block (i : Fin 4)
  | header
  | strings (i : Fin 16)
  | commands (i : Fin 2)
  | orders
  | orderStates
  | spentList
  | visits
  | journalHeader
  | consumedIndex
  | ring (i : Fin 16)
  deriving DecidableEq, Repr

/-- Recall in progress: the reads still to complete, the results of the current step's reads (none: FAULT), and whether
step 2 resumed the clock from the header (R175). -/
structure Recall where
  todo : List RecallRead
  got : List (Option (List Byte))
  resumed : Bool
  deriving DecidableEq, Repr

/-! ## The units' tables together -/

/-- The tables of all units: everything inside the part but the port queues, the arbiter and the memory port. -/
structure Tables where
  mode : RunMode
  ready : Bool
  key : Key
  active : Option Block
  apply : Option Apply
  lock : Bool
  clock : Word32
  synced : Bool
  advancing : Bool
  lastConsumed : Option Byte
  genLow : Option Byte
  genHigh : Option Byte
  cabs : Tab 32 CabEntry
  groups : Tab 8 GroupEntry
  strings : Tab 128 StringEntry
  visits : Tab 4 Visit
  orders : Tab 8 Order
  spent : List Word32
  recalling : Option Recall
  writer : Writer
  deriving DecidableEq, Repr

/-! ## The access in flight -/

/-- How a permitted floor command's reservation is undone (R96, R129, R130). -/
inductive FloorUndo where
  | toBypass
  | toOnline (machine : Xfer) (holder : Option Con)
  | testStart (s : Str) (saved : TestFields)
  | stopLive (s : Str) (saved : TestFields) (awaited : Bool)
  | stopAdded (s : Str) (previous : Option Byte)
  | stopIdle
  deriving DecidableEq, Repr

/-- What is taken when an access's operations are all answered OK (R40), or undone when one is answered FAULT. In
`floor`, `expired` says that the command timer started at the grant has expired in the gap (R86 (2)). -/
inductive Take where
  | nothing
  | config
  | status (c : Cab) (r : StatusRec)
  | floor (c : Cab) (seq : Byte) (cmd : FloorCmd) (undo : FloorUndo) (expired : Bool)
  | measure (s : Str) (r : MeasRec)
  | visitOpen (t : Con) (seq : Byte) (slot : Slot) (saved : Visit)
  | visitClose (t : Con) (seq : Byte)
  | replace (t : Con) (seq : Byte) (s : Str) (capacity : Word16)
  | retire (t : Con) (seq : Byte) (s : Str)
  | offer (n : Slot) (terms : OrderTerms)
  | withdraw (n : Slot)
  | clear (n : Slot)
  | consumed (v : Byte) (d : Nat)
  | clockSet (v : Word32)
  | flush
  | faultClear
  deriving DecidableEq, Repr

/-- A port access in flight: the queue head, its operations in order, which of its bytes are permitted, and its
take. -/
structure InFlight where
  acc : Access
  ops : List MemOp
  permitted : List Bool
  take : Take
  deriving DecidableEq, Repr

/-- The grant in progress (R18): a port access, or one operation of an internal client. -/
inductive Grant where
  | port (f : InFlight)
  | recallRead (r : RecallRead) (addr len : Nat)
  | loader (r : LoaderRead) (addr len : Nat)
  | writer (j : WriterJob) (isRetry : Bool) (addr : Nat) (bytes : List Byte)
  deriving DecidableEq, Repr

/-! ## Record memory -/

/-- Record memory: the bytes that differ from `Config.emptyByte`, the addresses left undefined by a faulted or cut-off
write, and the counter the free bytes are drawn with. -/
structure Memory where
  cells : List Host.Cell
  undefined : List Nat
  fresh : Nat
  deriving DecidableEq, Repr

/-! ## State -/

/-- The part, its lines, record memory, the replies that have left the links (oldest first), and the commands
waiting. -/
structure State where
  keyLine : Key
  pfwLine : Bool
  queues : Queues
  rotation : Requester
  grant : Option Grant
  sent : List (Port × List Byte)
  mem : Memory
  tables : Tables
  pending : List Instr
  deriving DecidableEq, Repr

/-- Why the part stops with a fault. -/
inductive Fault where
  /-- Raised by `portAccessComplete`, `applyReadComplete`, `recallReadComplete` and `writerWriteComplete` when an
  operation of the grant in progress lies outside 000000h–0FFFFFh. Safe: record memory has no such address (R14), and
  no grant the part makes carries one. -/
  | addressOutsideMemory
  deriving DecidableEq, Repr

/-- Why a command has no meaning. -/
inductive Refusal where
  /-- Raised by `exec` for a command that has no meaning yet; safe. No command is left so. -/
  | notModelled (mnemonic : String)
  deriving DecidableEq, Repr

/-! ## Reset values -/

/-- Tables 4.1(1) and 5.1(1) and R126 after power-on or reset. -/
def CabEntry.reset : CabEntry where
  fresh := false
  staleTimer := none
  report := none
  load := 0
  usableCount := 0
  supporting := false
  machine := .absent
  holder := none
  lastSeq := none
  lastCmd := none
  outstanding := false
  cmdTimer := none
  refusal := none
  refusalTime := 0
  supSeq := none
  supCmd := none
  supAwaited := false

/-- R75 and R126 after power-on or reset. -/
def GroupEntry.reset : GroupEntry where
  state := .learning
  load := 0
  supCount := 0
  margin := 0
  bypassCount := 0
  underTest := none
  testTimer := none

/-- R126 after power-on or reset. -/
def TestFields.reset : TestFields where
  state := .idle
  charge := 0
  suspensions := 0
  starter := .none
  result := .none
  cause := .none
  awaitFloor := none
  awaitSup := none

/-- R107 after power-on or reset. -/
def StringEntry.reset : StringEntry where
  rated := 0
  install := 0
  discharged := 0
  thermal := 0
  remainder := 0
  deepCount := 0
  episode := false
  lastCapacity := none
  lastSeq := none
  lastMode := none
  age := .unverified
  usable := false
  test := .reset

/-- R148 after power-on or reset. -/
def Visit.reset : Visit where
  state := .none
  order := 0
  badge := 0
  scope := 0
  perms := 0
  openTime := 0
  activity := 0
  reason := .none
  lastReq := none
  lastResult := none
  warnTimer := none
  endTimer := none
  durTimer := none

/-- R143 after power-on or reset. -/
def Order.reset : Order where
  state := .empty
  number := 0
  scope := 0
  perms := 0
  windowStart := 0
  windowEnd := 0
  maxMinutes := 0
  bound := none

/-- Table 9.1(2). The header's generation has no reset value there: 0, DESIGN CHOICE (notes/assumptions/6.md). -/
def Writer.reset : Writer where
  urgent := []
  lazySet := []
  half := Tab.fill 32 false
  barred := []
  barredHalves := []
  pending := []
  held := []
  heldDrop := false
  head := none
  copy := []
  span := []
  retry := none
  latch := false
  flushTimer := none
  attn := false
  status := .running
  applyResult := .none
  failOffset := 0xFFFF
  headerGen := 0
  stamp := 0

/-- The units' tables after power-on or reset, RESET still asserted (Tables 1.8(1), 3.1(1), 9.1(2); R67, R75, R84,
R107, R126, R143, R147, R148). The key state is the visit controller's own and is sampled anew at release (R142). -/
def Tables.reset (key : Key) : Tables where
  mode := .inReset
  ready := false
  key := key
  active := none
  apply := none
  lock := false
  clock := 0
  synced := false
  advancing := false
  lastConsumed := none
  genLow := none
  genHigh := none
  cabs := Tab.fill 32 .reset
  groups := Tab.fill 8 .reset
  strings := Tab.fill 128 .reset
  visits := Tab.fill 4 .reset
  orders := Tab.fill 8 .reset
  spent := []
  recalling := none
  writer := .reset

/-- Empty port queues (R23 (1)). -/
def Queues.reset : Queues where
  sup := []
  cab := []
  svc := []

/-- Record memory before its first use: nothing listed, nothing undefined. -/
def Memory.reset : Memory where
  cells := []
  undefined := []
  fresh := 0

/-- The machine right after reset: power-on, RESET not yet released (R23). The levels of KEY (LOCKED) and PFW
(deasserted) at power-on are inputs the spec gives no value: DESIGN CHOICE (notes/assumptions/6.md). -/
def State.reset : State where
  keyLine := .locked
  pfwLine := false
  queues := .reset
  rotation := .internal
  grant := none
  sent := []
  mem := .reset
  tables := .reset .locked
  pending := []

end Sys2Proof.Machine
end

