-- ==== Sys2Proof/Machine/Codes.lean ====
section
/-! DEFINITION. The byte codes of the names (02 section 2.12), one function per table in each direction used. -/

namespace Sys2Proof.Machine

/-- The number of an optional index, FFh for none (Tables 2.12(12), 2.12(13)). -/
def orFF {n : Nat} (o : Option (Fin n)) : Byte :=
  match o with
  | some i => byteOf i.val
  | none => 0xFF

/-- An optional byte whose record gives it a presence bit: 00h when absent (R162). -/
def orZero (o : Option Byte) : Byte := o.getD 0

/-- A bit set's member `i`: cabinets in a scope, permissions in a permission byte. -/
def hasBit {w : Nat} (set : BitVec w) (i : Nat) : Bool := set.getLsbD i

/-! ## Table 2.12(1), 2.12(2): frames -/

def Reason.code : Reason → Byte
  | .nomap => 0x01 | .range => 0x02 | .denied => 0x03 | .key => 0x04 | .locked => 0x05 | .shape => 0x06
  | .busy => 0x07 | .interlock => 0x08 | .scope => 0x09 | .state => 0x0A | .memfault => 0x0B

/-- Table 2.12(3). -/
def Cause.code : Cause → Byte
  | .absent => 0x01 | .notFresh => 0x02 | .notNormal => 0x03 | .noVisit => 0x04 | .groupLimit => 0x05
  | .testActive => 0x06 | .margin => 0x07 | .groupBusy => 0x08 | .utilityLoss => 0x09 | .notInBypass => 0x0A
  | .retired => 0x0B | .noPermission => 0x0C | .outOfScope => 0x0E | .scopeOverlap => 0x0F | .clock => 0x10
  | .window => 0x11 | .notOffered => 0x12 | .orderSpent => 0x13 | .orderInUse => 0x14 | .badgeInUse => 0x15
  | .visitActive => 0x16 | .cabinetHeld => 0x17

/-! ## Table 2.12(4): configuration block -/

def Attr.ofCode (n : Nat) : Attr :=
  match n with
  | 1 => .read
  | 2 => .write
  | 3 => .both
  | _ => .none

/-! ## Table 2.12(6): status records -/

def CabMode.code : CabMode → Byte
  | .onlineInverter => 0 | .onBattery => 1 | .staticBypass => 2 | .maintBypass => 3 | .off => 4 | .fault => 5

def CabMode.ofCode (n : Nat) : Option CabMode :=
  match n with
  | 0 => some .onlineInverter
  | 1 => some .onBattery
  | 2 => some .staticBypass
  | 3 => some .maintBypass
  | 4 => some .off
  | 5 => some .fault
  | _ => none

def Utility.code : Utility → Byte
  | .ok => 0 | .lost => 1

def Utility.ofCode (n : Nat) : Option Utility :=
  match n with
  | 0 => some .ok
  | 1 => some .lost
  | _ => none

def FloorResult.ofCode (n : Nat) : Option FloorResult :=
  match n with
  | 0 => some .accepted
  | 1 => some .declined
  | _ => none

/-! ## Table 2.12(7): command slots -/

def SupCmd.code : SupCmd → Byte
  | .testStop => 4 | .testSuspend => 5 | .testResume => 6

/-! ## Table 2.12(8): measurements -/

def MeasMode.code : MeasMode → Byte
  | .float => 0 | .discharge => 1 | .recharge => 2 | .testDischarge => 3 | .testHold => 4 | .opened => 5
  | .unlisted b => b

/-- The mode of one of the six listed codes. -/
def MeasMode.ofListed (n : Nat) : Option MeasMode :=
  match n with
  | 0 => some .float
  | 1 => some .discharge
  | 2 => some .recharge
  | 3 => some .testDischarge
  | 4 => some .testHold
  | 5 => some .opened
  | _ => none

/-- The last mode of a string record: FFh is none, an unlisted code stays as it stands (notes/assumptions/5.md). -/
def MeasMode.ofRecord (b : Byte) : Option MeasMode :=
  if b = 0xFF then none else some ((MeasMode.ofListed b.toNat).getD (.unlisted b))

/-! ## Tables 2.12(11) to 2.12(13): part records -/

def PartStatus.code : PartStatus → Byte
  | .running => 0 | .halted => 1

def ApplyResult.code : ApplyResult → Byte
  | .none => 0 | .applied => 1 | .invalid => 2 | .busyState => 3

def AgeState.code : AgeState → Byte
  | .unverified => 0 | .healthy => 1 | .watch => 2 | .due => 3 | .retired => 4

def AgeState.ofCode (n : Nat) : Option AgeState :=
  match n with
  | 0 => some .unverified
  | 1 => some .healthy
  | 2 => some .watch
  | 3 => some .due
  | 4 => some .retired
  | _ => none

def TestState.code : TestState → Byte
  | .idle => 0 | .requested => 1 | .running => 2 | .suspendPending => 3 | .suspended => 4 | .resumePending => 5
  | .stopping => 6

def TestState.ofCode (n : Nat) : Option TestState :=
  match n with
  | 0 => some .idle
  | 1 => some .requested
  | 2 => some .running
  | 3 => some .suspendPending
  | 4 => some .suspended
  | 5 => some .resumePending
  | 6 => some .stopping
  | _ => none

def Starter.code : Starter → Byte
  | .none => 0xFF | .sup => 0x10 | .console t => byteOf t.val | .unlisted b => b

def Starter.ofCode (b : Byte) : Starter :=
  if b = 0xFF then .none
  else if b = 0x10 then .sup
  else if h : b.toNat < 4 then .console ⟨b.toNat, h⟩
  else .unlisted b

def TestResult.code : TestResult → Byte
  | .none => 0 | .passed => 1 | .failed => 2 | .declined => 3 | .aborted => 4 | .unlisted b => b

def TestResult.ofCode (b : Byte) : TestResult :=
  match b.toNat with
  | 0 => .none
  | 1 => .passed
  | 2 => .failed
  | 3 => .declined
  | 4 => .aborted
  | _ => .unlisted b

def AbortCause.code : AbortCause → Byte
  | .none => 0 | .stopped => 1 | .timeout => 2 | .duration => 3 | .suspendLimit => 4 | .conditions => 5
  | .reset => 6 | .cabinet => 7 | .unlisted b => b

def AbortCause.ofCode (b : Byte) : AbortCause :=
  match b.toNat with
  | 0 => .none
  | 1 => .stopped
  | 2 => .timeout
  | 3 => .duration
  | 4 => .suspendLimit
  | 5 => .conditions
  | 6 => .reset
  | 7 => .cabinet
  | _ => .unlisted b

def Xfer.code : Xfer → Byte
  | .absent => 0 | .learning => 1 | .normal => 2 | .xferOut => 3 | .bypass => 4 | .xferBack => 5
  | .unsanctioned => 6

def GroupState.code : GroupState → Byte
  | .learning => 0 | .normal => 1 | .deficit => 2 | .utilityLoss => 3

def VisitState.code : VisitState → Byte
  | .none => 0 | .opened => 1 | .warned => 2 | .ended => 3

def VisitState.ofCode (n : Nat) : Option VisitState :=
  match n with
  | 0 => some .none
  | 1 => some .opened
  | 2 => some .warned
  | 3 => some .ended
  | _ => Option.none

def EndReason.code : EndReason → Byte
  | .none => 0 | .closed => 1 | .idle => 2 | .duration => 3 | .key => 4 | .revoked => 5 | .reset => 6 | .power => 7
  | .unlisted b => b

def EndReason.ofCode (b : Byte) : EndReason :=
  match b.toNat with
  | 0 => .none
  | 1 => .closed
  | 2 => .idle
  | 3 => .duration
  | 4 => .key
  | 5 => .revoked
  | 6 => .reset
  | 7 => .power
  | _ => .unlisted b

def OrderState.code : OrderState → Byte
  | .empty => 0 | .offered => 1 | .inUse => 2 | .spent => 3 | .withdrawn => 4

def OrderState.ofCode (n : Nat) : Option OrderState :=
  match n with
  | 0 => some .empty
  | 1 => some .offered
  | 2 => some .inUse
  | 3 => some .spent
  | 4 => some .withdrawn
  | _ => none

/-- The bit of a permission byte (Table 2.12(10)). -/
def Perm.bit : Perm → Nat
  | .bypass => 0 | .test => 1 | .replace => 2 | .retire => 3

/-! ## Tables 2.12(15), 2.12(16): the journal -/

def Severity.code : Severity → Byte
  | .info => 0 | .notice => 1 | .warning => 2 | .critical => 3

def JKind.code : JKind → Byte
  | .start => 0x01 | .powerWarn => 0x02 | .configApplied => 0x03 | .configRejected => 0x04 | .clockSet => 0x05
  | .lost => 0x06 | .writerFault => 0x07 | .cabStale => 0x10 | .cabFresh => 0x11 | .marginLost => 0x12
  | .marginRestored => 0x13 | .utilityLost => 0x14 | .utilityRestored => 0x15 | .xferGranted => 0x20
  | .xferRefused => 0x21 | .xferDeclined => 0x22 | .xferTimeout => 0x23 | .returnTimeout => 0x24
  | .bypassEntered => 0x25 | .bypassLeft => 0x26 | .adopted => 0x27 | .unsanctioned => 0x28 | .ageState => 0x30
  | .unplannedTest => 0x31 | .testStarted => 0x38 | .testSuspended => 0x39 | .testEnded => 0x3B | .noAck => 0x3C
  | .visitOpened => 0x40 | .visitWarned => 0x41 | .visitEnded => 0x42

end Sys2Proof.Machine
end

