-- ==== Sys2Proof/Machine/Ops.lean ====
section
/-! DEFINITION. The named operations over record memory, the port queues, and the units' tables: every read and write
of a table entry goes through an accessor of this file. -/

namespace Sys2Proof.Machine

/-! ## Record memory (R14) -/

/-- The bytes a listed cell holds: the first cell at the address, and the empty byte where there is none. -/
def cellAt : List Host.Cell → Nat → Byte
  | [], _ => Config.emptyByte
  | (a, b) :: rest, x => if x = a then b else cellAt rest x

/-- One byte written into the sorted cells; the empty byte takes its cell away. -/
def cellPut : List Host.Cell → Nat → Byte → List Host.Cell
  | [], x, v => if v = Config.emptyByte then [] else [(x, v)]
  | (a, b) :: rest, x, v =>
    if x < a then (if v = Config.emptyByte then (a, b) :: rest else (x, v) :: (a, b) :: rest)
    else if x = a then (if v = Config.emptyByte then rest else (x, v) :: rest)
    else (a, b) :: cellPut rest x v

/-- One address into a strictly rising list. -/
def addrInsert : List Nat → Nat → List Nat
  | [], x => [x]
  | a :: rest, x => if x < a then x :: a :: rest else if x = a then a :: rest else a :: addrInsert rest x

/-- One address out of a strictly rising list. -/
def addrRemove : List Nat → Nat → List Nat
  | [], _ => []
  | a :: rest, x => if x = a then rest else a :: addrRemove rest x

/-- What record memory holds at an address: a byte, or nothing definite after a faulted or cut-off write. -/
def Memory.look (m : Memory) (a : Nat) : Option Byte :=
  if a ∈ m.undefined then none else some (cellAt m.cells a)

/-- A byte answered OK has landed: it is definite again (R14). -/
def Memory.putByte (m : Memory) (a : Nat) (v : Byte) : Memory :=
  { m with cells := cellPut m.cells a v, undefined := addrRemove m.undefined a }

/-- A byte of a write answered FAULT, or cut off, is undefined (R14, R23); it keeps no cell. -/
def Memory.spoilByte (m : Memory) (a : Nat) : Memory :=
  { m with cells := cellPut m.cells a Config.emptyByte, undefined := addrInsert m.undefined a }

def Memory.putBytes (m : Memory) (a : Nat) : List Byte → Memory
  | [] => m
  | v :: rest => (m.putByte a v).putBytes (a + 1) rest

def Memory.spoil (m : Memory) (a : Nat) : Nat → Memory
  | 0 => m
  | n + 1 => (m.spoilByte a).spoil (a + 1) n

/-- One byte read: a definite byte as it stands, a fresh free byte from an undefined position (R14). -/
def Memory.takeByte (m : Memory) (a : Nat) : Byte × Memory :=
  match m.look a with
  | some b => (b, m)
  | none => (Config.freeByte m.fresh, { m with fresh := m.fresh + 1 })

def Memory.takeBytes (m : Memory) (a : Nat) : Nat → List Byte × Memory
  | 0 => ([], m)
  | n + 1 =>
    let (b, m) := m.takeByte a
    let (rest, m) := m.takeBytes (a + 1) n
    (b :: rest, m)

def strictlyRising : List Nat → Bool
  | [] => true
  | [_] => true
  | a :: b :: rest => decide (a < b) && strictlyRising (b :: rest)

/-- The canonical form: cells strictly rising and none the empty byte, undefined addresses strictly rising and none of
them a cell. -/
def Memory.wf (m : Memory) : Bool :=
  strictlyRising (m.cells.map (·.1)) && m.cells.all (fun c => decide (c.2 ≠ Config.emptyByte)) &&
    strictlyRising m.undefined && m.undefined.all (fun a => !(m.cells.map (·.1)).contains a)

/-- An operation of the memory port is a read or a write of 1 to 256 bytes within 000000h–0FFFFFh (R14). -/
def opInRange (addr len : Nat) : Bool := decide (1 ≤ len ∧ len ≤ 256 ∧ addr + len ≤ Config.memorySize)

def MemOp.addr : MemOp → Nat
  | .read a _ => a
  | .write a _ => a

def MemOp.len : MemOp → Nat
  | .read _ n => n
  | .write _ bs => bs.length

def MemOp.inRange (o : MemOp) : Bool := opInRange o.addr o.len

/-! ## Port queues (R6) -/

def queueLimit : Nat := 4

def Queues.of (q : Queues) : Port → List Access
  | .sup => q.sup
  | .cab => q.cab
  | .svc => q.svc

def Queues.put (q : Queues) : Port → List Access → Queues
  | .sup, l => { q with sup := l }
  | .cab, l => { q with cab := l }
  | .svc, l => { q with svc := l }

/-! ## The floor's numbers -/

def allCabs : List Cab := List.finRange 32
def allGroups : List Grp := List.finRange 8
def allStrings : List Str := List.finRange 128
def allConsoles : List Con := List.finRange 4
def allSlots : List Slot := List.finRange 8
def allPositions : List Pos := List.finRange 4

/-! ## Table entries: one home each, read and updated here -/

def Tables.cab (u : Tables) (c : Cab) : CabEntry := u.cabs.at' c
def Tables.grp (u : Tables) (g : Grp) : GroupEntry := u.groups.at' g
def Tables.str (u : Tables) (s : Str) : StringEntry := u.strings.at' s
def Tables.vis (u : Tables) (t : Con) : Visit := u.visits.at' t
def Tables.ord (u : Tables) (n : Slot) : Order := u.orders.at' n

def Tables.setCab (u : Tables) (c : Cab) (e : CabEntry) : Tables := { u with cabs := u.cabs.put c e }
def Tables.setGrp (u : Tables) (g : Grp) (e : GroupEntry) : Tables := { u with groups := u.groups.put g e }
def Tables.setStr (u : Tables) (s : Str) (e : StringEntry) : Tables := { u with strings := u.strings.put s e }
def Tables.setVis (u : Tables) (t : Con) (e : Visit) : Tables := { u with visits := u.visits.put t e }
def Tables.setOrd (u : Tables) (n : Slot) (e : Order) : Tables := { u with orders := u.orders.put n e }
def Tables.setWriter (u : Tables) (w : Writer) : Tables := { u with writer := w }

/-- The test fields of a string's entry, replaced. -/
def Tables.setTest (u : Tables) (s : Str) (t : TestFields) : Tables := u.setStr s { u.str s with test := t }

/-! ## The active configuration, as the units read it -/

def CabCfg.absent : CabCfg where
  present := false
  group := 0
  rated := 0
  minUsable := 0
  strings := Tab.fill 4 none

def GroupCfg.none : GroupCfg where
  redundancy := 0
  headroom := 0
  limit := 0

/-- The cabinet entry of the active configuration; absent while there is none (R67). -/
def Tables.cabCfg (u : Tables) (c : Cab) : CabCfg :=
  match u.active with
  | some b => b.cabs.at' c
  | none => .absent

/-- The group entry of the active configuration (R75). -/
def Tables.grpCfg (u : Tables) (g : Grp) : GroupCfg :=
  match u.active with
  | some b => b.groups.at' g
  | none => .none

/-- A time limit or threshold of the active configuration. It is read only by events that need a configuration. -/
def Tables.limit (u : Tables) (f : Block → Nat) : Nat :=
  match u.active with
  | some b => f b
  | none => 0

def Tables.present (u : Tables) (c : Cab) : Bool := (u.cabCfg c).present

def Tables.groupOf (u : Tables) (c : Cab) : Grp := (u.cabCfg c).group

/-- The present cabinets whose configured group is `g` (04 section 4.6). -/
def Tables.isMember (u : Tables) (g : Grp) (c : Cab) : Bool := u.present c && u.groupOf c == g

def Tables.members (u : Tables) (g : Grp) : List Cab := allCabs.filter (u.isMember g)

/-- The string at a position of a cabinet's list. -/
def Tables.stringAt (u : Tables) (c : Cab) (p : Pos) : Option Str := (u.cabCfg c).strings.at' p

/-- The position of a string in a present cabinet's list. -/
def CabCfg.position (e : CabCfg) (s : Str) : Option Pos :=
  if e.present then allPositions.find? (fun p => e.strings.at' p == some s) else none

/-- The present cabinet that lists a string, with the position (R108). -/
def Tables.place (u : Tables) (s : Str) : Option (Cab × Pos) :=
  allCabs.findSome? fun c => ((u.cabCfg c).position s).map fun p => (c, p)

def Tables.owner (u : Tables) (s : Str) : Option Cab := (u.place s).map (·.1)

/-- The strings of a cabinet's list, by position. -/
def CabCfg.listed (e : CabCfg) : List Str := allPositions.filterMap fun p => e.strings.at' p

def Tables.stringsOf (u : Tables) (c : Cab) : List Str := (u.cabCfg c).listed

/-! ## Sequences and timers -/

/-- The next sequence (R2); the first one issued after none is 0 (R177). -/
def nextSeq : Option Byte → Byte
  | some n => n + 1
  | none => 0

/-- A sequence that passes: the next one, or any while the last one is none (R85, R149, R177). -/
def seqPasses (last : Option Byte) (q : Byte) : Bool :=
  match last with
  | some n => q == n + 1
  | none => true

/-- One second of a running timer; a timer that has expired waits for its expiry event (R62, R3). -/
def Timer.tick : Timer → Timer
  | some n => some (n - 1)
  | none => none

/-- A visit that is open (R148). -/
def VisitState.isOpen : VisitState → Bool
  | .opened | .warned => true
  | .none | .ended => false

/-- Test states other than IDLE (R126). -/
def TestState.active (s : TestState) : Bool := s != .idle

/-- R126. -/
def TestState.live : TestState → Bool
  | .requested | .running | .suspendPending | .suspended | .resumePending => true
  | .idle | .stopping => false

/-- XFER_OUT, BYPASS, XFER_BACK and UNSANCTIONED: the machines a group's bypass count counts (R76). -/
def Xfer.out : Xfer → Bool
  | .xferOut | .bypass | .xferBack | .unsanctioned => true
  | .absent | .learning | .normal => false

end Sys2Proof.Machine
end

