-- ==== Sys2Proof/Machine/Flags.lean ====
section
/-! DEFINITION. The part's output flags and the conditions derived from its state: ATTN (R170), flow hold (R7), stopped
grants (R21), presence bits and record flags. -/

namespace Sys2Proof.Machine

/-- ATTN is asserted while the journal copy holds an unconsumed entry at or above the attention severity, or the
write-fault latch is set; it is deasserted while no configuration is active and until recall establishes the journal
head (R170). A recalled severity code above 03h ranks by its number: DESIGN CHOICE, unsafe (notes/assumptions/39.md). -/
def Tables.attnLevel (u : Tables) : Bool :=
  match u.active with
  | none => false
  | some b =>
    u.writer.head.isSome &&
      (u.writer.latch || u.writer.copy.any fun c => decide (b.attention ≤ c.entry.severity.toNat))

/-- ATTN re-evaluated (R170). -/
def Tables.evalAttn (u : Tables) : Tables := { u with writer := { u.writer with attn := u.attnLevel } }

/-- Links are held while RESET is asserted, from the assertion of PFW, and in HALTED (R7, R21); otherwise a link is
held while its queue is full. -/
def RunMode.holdsLinks : RunMode → Bool
  | .inReset | .draining | .halting | .halted => true
  | .recalling | .running => false

/-- Port grants are made only while the part runs (R21); the NOMAP state counts as running. -/
def RunMode.grantsPorts : RunMode → Bool
  | .running => true
  | .inReset | .recalling | .draining | .halting | .halted => false

/-- The part is in the NOMAP state while no configuration is active (R30). -/
def Tables.nomap (u : Tables) : Bool := u.active.isNone

/-- The presence bits of a cabinet state record's byte 0Eh (Table 2.12(13)). -/
def CabEntry.presenceBits (e : CabEntry) : Byte := bit e.lastSeq.isSome ||| (bit e.supSeq.isSome <<< 1)

/-- The presence bits of a visit record's byte 1Bh (Table 2.12(13)). -/
def Visit.presenceBits (v : Visit) : Byte := bit v.lastReq.isSome ||| (bit v.lastResult.isSome <<< 1)

/-- Byte 07h of a string record (Table 2.12(12)): episode flag, presence bits, thermal remainder in bits 5–3. -/
def StringEntry.flagBits (e : StringEntry) : Byte :=
  bit e.episode ||| (bit e.lastCapacity.isSome <<< 1) ||| (bit e.lastSeq.isSome <<< 2) |||
    (e.remainder.zeroExtend 8 <<< 3)

end Sys2Proof.Machine
end

