-- ==== Sys2Proof/Machine/Writer.lean ====
section
/-! DEFINITION. The record writer's collections (09): marks, journal entries, the lost mark, the flush. The other units
give marks and entries through `markUrgent`, `markLazy`, `markHalf` and `journal`. -/

namespace Sys2Proof.Machine

/-! ## The urgent set and the lazy set (R163) -/

def Writer.inUrgent (w : Writer) (r : RecId) : Bool := w.urgent.any fun p => p.what == r
def Writer.inLazy (w : Writer) (r : RecId) : Bool := w.lazySet.contains r
def Writer.placed (w : Writer) (r : RecId) : Bool := w.inUrgent r || w.inLazy r

/-- A place joins the tail of the urgent set. -/
def Writer.joinUrgent (w : Writer) (r : RecId) : Writer :=
  { w with urgent := w.urgent ++ [⟨r, w.stamp⟩], stamp := w.stamp + 1 }

/-- R163 (1). -/
def Writer.urgentMark (w : Writer) (r : RecId) : Writer :=
  if w.inUrgent r then w else { w with lazySet := w.lazySet.erase r }.joinUrgent r

/-- R163 (2). -/
def Writer.lazyMark (w : Writer) (r : RecId) : Writer :=
  if w.placed r then w else { w with lazySet := w.lazySet ++ [r] }

/-- A place leaves whichever set holds it. -/
def Writer.unplace (w : Writer) (r : RecId) : Writer :=
  { w with urgent := w.urgent.filter fun p => p.what != r, lazySet := w.lazySet.erase r }

/-- A record that a mark does not place: any record in the NOMAP state (R172), the header during the drain (R181 (4)),
and a record that faulted twice in the drain (R182 (1)). -/
def Tables.heldBack (u : Tables) (r : RecId) : Bool :=
  u.nomap || decide (u.mode = .draining ∧ r = .header) || u.writer.barred.contains r

/-- An urgent mark given to the writer. -/
def Tables.markUrgent (u : Tables) (r : RecId) : Tables :=
  if u.heldBack r then u else u.setWriter (u.writer.urgentMark r)

/-- A lazy mark given to the writer; during the drain it is placed as an urgent mark (R181 (4)). -/
def Tables.markLazy (u : Tables) (r : RecId) : Tables :=
  if u.mode = .draining then u.markUrgent r
  else if u.heldBack r then u
  else u.setWriter (u.writer.lazyMark r)

/-- The half mark of a cabinet's place set (R163 (3)), unless its supervisor half faulted twice in the drain
(R182 (1)). -/
def Writer.setHalf (w : Writer) (c : Cab) : Writer :=
  if w.barredHalves.contains c then w else { w with half := w.half.put c true }

/-- A supervisor half given to the writer (R163 (3)): the half mark of the cabinet's place is set and the place marked
urgent. In the NOMAP state it is not kept (R172). -/
def Tables.markHalf (u : Tables) (c : Cab) : Tables :=
  if u.nomap then u
  else (u.setWriter (u.writer.setHalf c)).markUrgent (.cabinet c)

/-- What faulted twice in the drain is not placed again and stays unwritten (R182 (1)): it loses a place, or a half mark,
that it has gained since its retry was granted, and no later mark places it. DESIGN CHOICE, unsafe
(notes/assumptions/43.md). -/
def Writer.bar (w : Writer) (r : RecId) : Writer := { w.unplace r with barred := r :: w.barred }
def Writer.barHalf (w : Writer) (c : Cab) : Writer :=
  { w with half := w.half.put c false, barredHalves := c :: w.barredHalves }

/-- An urgent mark when `b` holds, otherwise a lazy one when `l` holds. -/
def Tables.markIf (u : Tables) (r : RecId) (b l : Bool) : Tables :=
  if b then u.markUrgent r else if l then u.markLazy r else u

/-! ## The journal (R167, R168) -/

def pendingLimit : Nat := 32
def ringSize : Nat := 256

/-- The entries the pending list holds, held ones among them (R161 (2), R172). -/
def Writer.listed (w : Writer) : Nat := w.held.length + w.pending.length

/-- Space for one more entry (R168). -/
def Writer.hasSpace (w : Writer) : Bool :=
  match w.head with
  | some h => decide (h.unconsumed < ringSize ∧ w.listed < pendingLimit)
  | none => false

/-- An entry with its sequence. -/
def RawEntry.numbered (e : RawEntry) (seq : Word32) : JEntry where
  seq := seq
  time := e.time
  kind := e.kind.code
  severity := e.severity.code
  subject := e.subject
  detail := e.detail
  value := e.value

/-- An entry taken by R167 (1) to (3), with the stamp of its joining: it receives the next sequence and ring position,
and joins the journal copy and the tail of the pending list. -/
def Writer.takeStamped (w : Writer) (h : JHead) (e : RawEntry) (stamp : Nat) : Writer :=
  let j := e.numbered h.nextSeq
  { w with
    head := some { h with nextSeq := h.nextSeq + 1, nextPos := h.nextPos + 1, unconsumed := h.unconsumed + 1 }
    copy := w.copy ++ [⟨h.nextPos, j, false⟩]
    pending := w.pending ++ [⟨h.nextPos, j, stamp⟩] }

/-- An entry taken at its creation. -/
def Writer.takeEntry (w : Writer) (h : JHead) (e : RawEntry) : Writer :=
  { w.takeStamped h e w.stamp with stamp := w.stamp + 1 }

/-- The LOST entry (Table 9.5(1)). -/
def Tables.lostEntry (u : Tables) : RawEntry :=
  { time := u.clock, kind := .lost, severity := .warning, subject := 0, detail := 0, value := 0 }

/-- R167 (3), (4): the entry is taken, the journal header marked, ATTN re-evaluated. -/
def Tables.takeEntry (u : Tables) (h : JHead) (e : RawEntry) : Tables :=
  ((u.setWriter (u.writer.takeEntry h e)).markUrgent .journalHeader).evalAttn

/-- While the lost mark is set, the LOST entry is created as soon as space allows, and the mark becomes clear (R168). -/
def Tables.tryLost (u : Tables) : Tables :=
  match u.writer.head with
  | some h => if h.lost && u.writer.hasSpace then u.takeEntry { h with lost := false } u.lostEntry else u
  | none => u

/-- The lost mark set; the journal header is marked urgent if the mark was clear (R168). -/
def Tables.setLost (u : Tables) : Tables :=
  match u.writer.head with
  | some h =>
    if h.lost then u else (u.setWriter { u.writer with head := some { h with lost := true } }).markUrgent .journalHeader
  | none => u

/-- An entry judged by R168 and taken by R167 or dropped; the LOST entry comes first where space allows. -/
def Tables.submit (u : Tables) (e : RawEntry) : Tables :=
  let u := u.tryLost
  match u.writer.head with
  | some h => if u.writer.hasSpace then u.takeEntry h e else u.setLost
  | none => u

/-- An entry joins the pending list without sequence or position. -/
def Writer.hold (w : Writer) (e : RawEntry) : Writer :=
  { w with held := w.held ++ [⟨e, w.stamp⟩], stamp := w.stamp + 1 }

/-- An entry created before the journal head is established joins the pending list at its creation, which marks the
journal header urgent (R163, R172); one that finds 32 there is dropped, and the drop is kept for step 6 of recall. -/
def Tables.hold (u : Tables) (e : RawEntry) : Tables :=
  if u.writer.listed < pendingLimit then (u.setWriter (u.writer.hold e)).markUrgent .journalHeader
  else u.setWriter { u.writer with heldDrop := true }

/-- A held entry judged at the establishment of the head (R172): it stands in the pending list already, so the
unconsumed count alone can refuse it. Taken by R167, it keeps the stamp of its joining, and the journal header the place
that the entry's creation gave it. -/
def Tables.judgeHeld (u : Tables) (e : HeldEntry) : Tables :=
  match u.writer.head with
  | some h =>
    if h.unconsumed < ringSize then
      ((u.setWriter (u.writer.takeStamped h e.entry e.stamp)).markUrgent .journalHeader).evalAttn
    else u.setLost
  | none => u

/-- A unit creates an entry (R167). In the NOMAP state it is discarded (R172). -/
def Tables.journal (u : Tables) (kind : JKind) (severity : Severity) (subject detail : Byte) (value : Word32) :
    Tables :=
  let e : RawEntry := { time := u.clock, kind, severity, subject, detail, value }
  if u.nomap then u
  else if u.writer.head.isSome then u.submit e
  else u.hold e

/-- The ring position of the oldest unconsumed entry: the next ring position less the unconsumed count, modulo 256
(R161 (3)). -/
def JHead.oldest (h : JHead) : Byte := h.nextPos - BitVec.ofNat 8 h.unconsumed

/-- The distance a written consumed index consumes (R64 (2)); none where R64 refuses the value. -/
def JHead.distance (h : JHead) (v : Nat) : Option Nat :=
  if 255 < v then none
  else
    let d := if h.unconsumed = ringSize ∧ byteOf v = h.oldest then ringSize else (byteOf v - h.oldest).toNat
    if h.unconsumed < d then none else some d

/-- The oldest `d` entries leave the unconsumed count, the journal copy and the rewrite span (R64, R167, R171). -/
def Writer.consume (w : Writer) (d : Nat) : Writer :=
  let gone := (w.copy.take d).map (·.entry.seq)
  { w with
    head := w.head.map fun h => { h with unconsumed := h.unconsumed - d }
    copy := w.copy.drop d
    span := w.span.filter fun e => !gone.contains e.entry.seq }

/-! ## Flush, latch, moves -/

/-- Every place of the lazy set moves to the tail of the urgent set, in lazy-set order (R165). -/
def Writer.flushLazy (w : Writer) : Writer :=
  w.lazySet.foldl (fun w r => w.joinUrgent r) { w with lazySet := [] }

/-- The flush: the lazy set moves and the flush timer restarts (R165). -/
def Tables.flushNow (u : Tables) : Tables :=
  u.setWriter { u.writer.flushLazy with flushTimer := some (u.limit (·.flushTime)) }

/-- The write-fault latch set; a change marks the header urgent and re-evaluates ATTN (R166). -/
def Tables.setLatch (u : Tables) : Tables :=
  if u.writer.latch then u else ((u.setWriter { u.writer with latch := true }).markUrgent .header).evalAttn

/-- Every part record, in the order of R171. -/
def allRecords : List RecId :=
  [.header] ++ allCabs.map .cabinet ++ allGroups.map .group ++ allConsoles.map .visit ++ allSlots.map .order ++
    [.spentList, .journalHeader] ++ allStrings.map .string

def Tables.markAll (u : Tables) : Tables := allRecords.foldl (fun u r => u.markUrgent r) u

/-- A moved STATE area: every record urgent, and the rewrite span every unconsumed entry that is not pending and was
not given up at recall (R59, R171). -/
def Tables.moveState (u : Tables) : Tables :=
  let u := u.markAll
  let pendingSeqs := u.writer.pending.map (·.entry.seq)
  u.setWriter { u.writer with
    span := u.writer.copy.filter fun e => !e.givenUp && !pendingSeqs.contains e.entry.seq }

end Sys2Proof.Machine
end

