-- ==== Sys2Proof/Machine/TestStops.lean ====
section
/-! DEFINITION. The test controller's moves that leave a test active (07): changes of the test fields with their
marks, the issue of supervisor halves, stops, and the suspend condition. They come before the margin evaluation, which
hands them its condition. -/

namespace Sys2Proof.Machine

/-- The changes of test fields that make the string record urgent (R127 (2)). -/
def TestFields.urgentChange (o n : TestFields) : Bool :=
  decide (o.state ≠ n.state ∨ o.suspensions ≠ n.suspensions ∨ o.starter ≠ n.starter ∨ o.result ≠ n.result ∨
    o.cause ≠ n.cause)

/-- A string's test fields changed, with the marks of R127 (2). -/
def Tables.changeTest (u : Tables) (s : Str) (t : TestFields) : Tables :=
  let o := (u.str s).test
  (u.setTest s t).markIf (.string s) (o.urgentChange t) (decide (o.charge ≠ t.charge))

/-- The command timer started with the command time, restarted if it is running (R88). -/
def Tables.startCmdTimer (u : Tables) (c : Cab) : Tables :=
  u.setCab c { u.cab c with cmdTimer := some (u.limit (·.commandTime)) }

def Tables.stopCmdTimer (u : Tables) (c : Cab) : Tables := u.setCab c { u.cab c with cmdTimer := none }

/-- The awaited supervisor command of a cabinet is no longer awaited (R130, R132, R140). -/
def Tables.clearAwaited (u : Tables) (c : Cab) : Tables := u.setCab c { u.cab c with supAwaited := false }

def Tables.clearAwaitedOf (u : Tables) (s : Str) : Tables :=
  match u.owner s with
  | some c => u.clearAwaited c
  | none => u

/-- The test controller issues a supervisor-half command for a cabinet's position (R134 (1) to (4)). -/
def Tables.issueAt (u : Tables) (c : Cab) (p : Pos) (cmd : SupCmd) : Tables :=
  let e := u.cab c
  ((u.setCab c { e with supSeq := some (nextSeq e.supSeq), supCmd := some (cmd, p), supAwaited := true }).markHalf
    c).startCmdTimer c

/-- The issue for a string, at its place in the configuration. -/
def Tables.issueSup (u : Tables) (s : Str) (cmd : SupCmd) : Tables :=
  match u.place s with
  | some (c, p) => u.issueAt c p cmd
  | none => u

/-- The supervisor sequence last issued for a string's cabinet. -/
def Tables.issuedSeq (u : Tables) (s : Str) : Option Byte := (u.owner s).bind fun c => (u.cab c).supSeq

/-- A live test is stopped by the part: TEST_STOP is issued, the result is ABORTED with a cause, and the string becomes
STOPPING with the issued sequence awaited (R134 (5), R136 to R139). -/
def Tables.stopTest (u : Tables) (s : Str) (cause : AbortCause) : Tables :=
  let u := u.issueSup s .testStop
  let t := (u.str s).test
  u.changeTest s { t with state := .stopping, result := .aborted, cause, awaitSup := u.issuedSeq s }

/-- The live test of a group, if any, is stopped with cause CABINET (R137 (2), (3)). -/
def Tables.stopLiveOf (u : Tables) (g : Grp) : Tables :=
  match (u.grp g).underTest with
  | some s => if (u.str s).test.state.live then u.stopTest s .cabinet else u
  | none => u

/-- A completion report (R127 (3)). -/
def Tables.completionReport (u : Tables) (c : Cab) : Tables :=
  let e := u.cab c
  if !e.outstanding && (e.machine == .normal || e.machine == .unsanctioned) then u.stopCmdTimer c else u

def Tables.completionReportOf (u : Tables) (s : Str) : Tables :=
  match u.owner s with
  | some c => u.completionReport c
  | none => u

def suspensionLimit : Nat := 2

/-- TEST_SUSPEND (R136). -/
def Tables.suspendTest (u : Tables) (s : Str) : Tables :=
  let u := u.issueSup s .testSuspend
  let t := (u.str s).test
  let n := t.suspensions + 1
  (u.changeTest s { t with state := .suspendPending, suspensions := n }).journal .testSuspended .notice
    (byteOf s.val) (byteOf n) t.charge

/-- TEST_RESUME (R136). -/
def Tables.resumeTest (u : Tables) (s : Str) : Tables :=
  let u := u.issueSup s .testResume
  u.changeTest s { (u.str s).test with state := .resumePending }

/-- Table 7.6(1), condition true. -/
def Tables.conditionTrue (u : Tables) (s : Str) : Tables :=
  let t := (u.str s).test
  match t.state with
  | .requested => u.stopTest s .conditions
  | .running | .resumePending =>
    if t.suspensions < suspensionLimit then u.suspendTest s else u.stopTest s .suspendLimit
  | .idle | .suspendPending | .suspended | .stopping => u

/-- Table 7.6(1), condition false. -/
def Tables.conditionFalse (u : Tables) (s : Str) : Tables :=
  match (u.str s).test.state with
  | .suspendPending | .suspended => u.resumeTest s
  | .idle | .requested | .running | .resumePending | .stopping => u

/-- The suspend condition of a group, acted on against the state of its string under test (R136). -/
def Tables.suspendAct (u : Tables) (g : Grp) (condition : Bool) : Tables :=
  match (u.grp g).underTest with
  | some s => if condition then u.conditionTrue s else u.conditionFalse s
  | none => u

end Sys2Proof.Machine
end

