-- ==== Sys2Proof/Machine/Margin.lean ====
section
/-! DEFINITION. The cabinet tracker's evaluation (04): usable strings, supporting cabinets, the margin test, group
states, and re-evaluation. -/

namespace Sys2Proof.Machine

/-! ## Supporting cabinets (R74) -/

/-- R74 with a given usable string count. -/
def Tables.supportsWith (u : Tables) (c : Cab) (usable : Nat) : Bool :=
  let e := u.cab c
  let inService : Bool :=
    match e.report with
    | some r => r.mode == .onlineInverter || r.mode == .onBattery
    | none => false
  u.present c && e.fresh && (e.machine == .normal) && inService && decide ((u.cabCfg c).minUsable ≤ usable)

def Tables.supports (u : Tables) (c : Cab) : Bool := u.supportsWith c (u.cab c).usableCount

/-! ## The margin test (R77) -/

def insertDesc (x : Nat) : List Nat → List Nat
  | [] => [x]
  | y :: l => if y ≤ x then x :: y :: l else y :: insertDesc x l

def sortDesc (l : List Nat) : List Nat := l.foldr insertDesc []

/-- The sum of the `n` largest ratings; equal ratings count as often as they occur. -/
def sumLargest (n : Nat) (l : List Nat) : Nat := ((sortDesc l).take n).sum

/-- The available power of the ratings in S, in 0.1 kW (R77 (2)). -/
def availablePower (redundancy : Nat) (ratings : List Nat) : Nat :=
  10 * (ratings.sum - sumLargest redundancy ratings)

/-- The required power, in 0.1 kW (R77 (3)). -/
def requiredPower (load headroom : Nat) : Nat := (load * (100 + headroom) + 99) / 100

/-- The result of a margin test. -/
structure MarginResult where
  holds : Bool
  value : Int
  deriving DecidableEq, Repr

/-- R77 (4), (5). -/
def marginTest (redundancy headroom load : Nat) (ratings : List Nat) : MarginResult where
  holds := decide (redundancy + 1 ≤ ratings.length ∧
    requiredPower load headroom ≤ availablePower redundancy ratings)
  value := (availablePower redundancy ratings : Int) - (requiredPower load headroom : Int)

/-- The group load: the sum of the last loads of all present members (R75). -/
def Tables.loadOf (u : Tables) (g : Grp) : Nat := ((u.members g).map fun c => (u.cab c).load.toNat).sum

/-- The margin of a group with S the members that satisfy `inS`. -/
def Tables.marginWith (u : Tables) (g : Grp) (inS : Cab → Bool) : MarginResult :=
  let cfg := u.grpCfg g
  marginTest cfg.redundancy cfg.headroom (u.loadOf g)
    (((u.members g).filter inS).map fun c => (u.cabCfg c).rated)

/-- The standing margin. -/
def Tables.marginOf (u : Tables) (g : Grp) : MarginResult := u.marginWith g u.supports

/-- The margin with a cabinet removed (R78 (1)). -/
def Tables.marginWithout (u : Tables) (g : Grp) (c : Cab) : MarginResult :=
  u.marginWith g fun x => x != c && u.supports x

/-- The margin with a string of a cabinet counted unusable (R78 (2)). -/
def Tables.marginUnusable (u : Tables) (g : Grp) (c : Cab) (s : Str) : MarginResult :=
  let n := (u.cab c).usableCount
  u.marginWith g fun x =>
    if x = c then u.supportsWith c (if (u.str s).usable then n - 1 else n) else u.supports x

/-! ## Group state (R76, R79, R80) -/

def Tables.bypassCountOf (u : Tables) (g : Grp) : Nat :=
  (u.members g).countP fun c => (u.cab c).machine.out

def Tables.supCountOf (u : Tables) (g : Grp) : Nat :=
  (u.members g).countP fun c => (u.cab c).supporting

/-- A present FRESH member of the group has UTILITY_LOST as its last utility state. -/
def Tables.utilityLost (u : Tables) (g : Grp) : Bool :=
  (u.members g).any fun c =>
    let e := u.cab c
    e.fresh && match e.report with
      | some r => r.utility == .lost
      | none => false

/-- R79. -/
def Tables.groupStateOf (u : Tables) (g : Grp) : GroupState :=
  let ms := u.members g
  if ms.isEmpty || ms.any (fun c => (u.cab c).machine == .learning) then .learning
  else if u.utilityLost g then .utilityLoss
  else if (u.marginOf g).holds then .normal
  else .deficit

/-- The journal entry of a group state transition, with its severity (Tables 4.8(1), 9.5(1)). -/
def transitionEntry : GroupState → GroupState → Option (JKind × Severity)
  | .normal, .deficit => some (.marginLost, .warning)
  | .learning, .deficit => some (.marginLost, .warning)
  | .deficit, .normal => some (.marginRestored, .notice)
  | .learning, .utilityLoss => some (.utilityLost, .warning)
  | .normal, .utilityLoss => some (.utilityLost, .warning)
  | .deficit, .utilityLoss => some (.utilityLost, .warning)
  | .utilityLoss, .normal => some (.utilityRestored, .notice)
  | .utilityLoss, .deficit => some (.utilityRestored, .notice)
  | _, _ => none

/-- A group's fields as a re-evaluation leaves them (R81). -/
def Tables.groupFields (u : Tables) (g : Grp) : GroupEntry :=
  { u.grp g with
    state := u.groupStateOf g, load := u.loadOf g, supCount := u.supCountOf g, margin := (u.marginOf g).value,
    bypassCount := u.bypassCountOf g }

/-- The suspend condition (R83). -/
def Tables.suspendCondition (u : Tables) (g : Grp) : Bool := !(u.marginOf g).holds || u.utilityLost g

/-- The journal entry of R80, when the state changed from `old`. -/
def Tables.journalTransition (u : Tables) (g : Grp) (old : GroupState) : Tables :=
  let e := u.grp g
  match transitionEntry old e.state with
  | some (kind, severity) =>
    u.journal kind severity (byteOf g.val) e.state.code (BitVec.ofInt 32 e.margin)
  | none => u

/-- A group re-evaluated: its fields with the marks of R70 (2), its transition journaled (R80), the suspend condition
handed to the test controller (R83). -/
def Tables.reevalGroup (u : Tables) (g : Grp) : Tables :=
  let o := u.grp g
  let n := u.groupFields g
  let urgent := decide (o.state ≠ n.state ∨ o.supCount ≠ n.supCount ∨ o.bypassCount ≠ n.bypassCount)
  let lazy := decide (o.load ≠ n.load ∨ o.margin ≠ n.margin)
  let u := ((u.setGrp g n).markIf (.group g) urgent lazy).journalTransition g o.state
  u.suspendAct g (u.suspendCondition g)

/-- A cabinet's supporting flag recomputed; a change makes its record urgent (R74). -/
def Tables.reevalFlag (u : Tables) (c : Cab) : Tables :=
  let e := u.cab c
  let f := u.supports c
  (u.setCab c { e with supporting := f }).markIf (.cabinet c) (e.supporting != f) false

/-- A cabinet and its group re-evaluated (R81, events (1) to (4)). -/
def Tables.reevalCab (u : Tables) (c : Cab) : Tables :=
  let u := u.reevalFlag c
  if u.present c then u.reevalGroup (u.groupOf c) else u

/-- Every cabinet and every group re-evaluated (R82): all flags, then the groups in ascending number. DESIGN CHOICE, unsafe
(notes/assumptions/35.md): R82 gives no order. -/
def Tables.reevalAll (u : Tables) : Tables :=
  let u := allCabs.foldl (fun u c => u.reevalFlag c) u
  allGroups.foldl (fun u g => u.reevalGroup g) u

/-! ## Usable strings (R73) -/

/-- R73 (3). -/
def modeUsable : Option MeasMode → Bool
  | some .opened | some .testDischarge | some .testHold => false
  | _ => true

/-- R73. -/
def StringEntry.usableNow (e : StringEntry) : Bool :=
  (e.age == .healthy || e.age == .watch) && (e.test.state == .idle) && modeUsable e.lastMode

/-- The usable string count of a cabinet from the marks of its listed strings. -/
def Tables.countUsable (u : Tables) (c : Cab) : Nat := (u.stringsOf c).countP fun s => (u.str s).usable

/-- The count kept (R73); 0 for an absent cabinet: DESIGN CHOICE, safe (notes/assumptions/36.md). -/
def Tables.setCount (u : Tables) (c : Cab) : Tables := u.setCab c { u.cab c with usableCount := u.countUsable c }

/-- A string's usable mark recomputed; a change is handed to the tracker, which updates the owner's count and
re-evaluates (R73). -/
def Tables.recomputeMark (u : Tables) (s : Str) : Tables :=
  let e := u.str s
  if e.usable = e.usableNow then u
  else
    let u := u.setStr s { e with usable := e.usableNow }
    match u.owner s with
    | some c => (u.setCount c).reevalCab c
    | none => u

/-! ## Machine changes (R106) -/

/-- A cabinet's machine has moved: the tracker re-evaluates, then the test controller stops the group's live test when
the machine is neither NORMAL nor ABSENT (R106, R137 (2)). -/
def Tables.machineMoved (u : Tables) (c : Cab) : Tables :=
  let u := u.reevalCab c
  let m := (u.cab c).machine
  if u.present c && m != .normal && m != .absent then u.stopLiveOf (u.groupOf c) else u

end Sys2Proof.Machine
end

