-- ==== Sys2Proof/Machine/Operands.lean ====
section
/-! DEFINITION. The operand forms: access frames and the records ports write, read from their bytes (02 section 2.12);
replies as bytes; and the configuration block as fields. -/

namespace Sys2Proof.Machine

/-! ## Access frames (R4, R45, Table 2.12(1)) -/

/-- A length field of 00h means 256. -/
def frameLen (b : Byte) : Nat := if b = 0 then 256 else b.toNat

/-- The access a received frame carries, when it passes the checks of R4 in their order: the frame check, the kind, and
the number of data bytes. A frame too short to hold its fields fails. -/
def parseFrame (port : Port) (frame : List Byte) : Option Access :=
  let body := frame.take (frame.length - 2)
  if frame.length < 9 then none
  else if frame.drop (frame.length - 2) ≠ le16 (crc body) then none
  else
    let len := frameLen (byteAt frame 6)
    let data := body.drop 7
    let access (k : Kind) : Access :=
      { port, kind := k, txn := (byteAt frame 1).extractLsb' 0 4, tag := byteAt frame 2, addr := u24 frame 3, len,
        data }
    match u8 frame 0 with
    | 1 => if data.length = 0 then some (access .read) else none
    | 2 => if data.length = len then some (access .write) else none
    | _ => none

/-! ## Replies (R11, R45, Table 2.12(2)) -/

/-- A reply's fields. Its status follows from them (Table 1.3(1)). -/
inductive Reply where
  | done (count : Nat) (data : List Byte)
  | partialDone (count : Nat) (data : List Byte)
  | refused (reason : Reason) (detail : Option Cause)
  deriving DecidableEq, Repr

/-- The status, reason and detail bytes of a reply. -/
def Reply.result : Reply → VisitResult
  | .done _ _ => ⟨0x00, 0x00, 0x00⟩
  | .partialDone _ _ => ⟨0x01, Reason.denied.code, 0x00⟩
  | .refused r d => ⟨0x02, r.code, match d with | some c => c.code | none => 0x00⟩

def Reply.count : Reply → Nat
  | .done n _ => n
  | .partialDone n _ => n
  | .refused _ _ => 0

def Reply.data : Reply → List Byte
  | .done _ d => d
  | .partialDone _ d => d
  | .refused _ _ => []

/-- The bytes of a reply as sent, its frame check included. -/
def Reply.frame (r : Reply) (txn : BitVec 4) : List Byte :=
  withCrc ([txn.zeroExtend 8, r.result.status, r.result.reason, r.result.detail] ++ le16 (BitVec.ofNat 16 r.count) ++
    r.data)

/-! ## Records written by the ports -/

/-- The mode, utility state and floor result of a status record whose codes are listed (R68, Table 2.12(6)). -/
def parseStatus (d : List Byte) : Option StatusRec :=
  match CabMode.ofCode (u8 d 1), Utility.ofCode (u8 d 2), FloorResult.ofCode (u8 d 3) with
  | some mode, some utility, some result =>
    some { mode, utility, result, load := word16At d 4, floorAck := byteAt d 6, supAck := byteAt d 7 }
  | _, _, _ => none

/-- A test command's position, when the argument is 0–3 (R128, R130). -/
def parsePos (b : Byte) : Option Pos := if h : b.toNat < 4 then some ⟨b.toNat, h⟩ else none

/-- A measurement's fields, when its mode is listed (R109, Table 2.12(8)). -/
def parseMeasurement (d : List Byte) : Option MeasRec :=
  (MeasMode.ofListed (u8 d 2)).map fun mode =>
    { seq := byteAt d 1, mode, interval := word16At d 4, temperature := word16At d 10, chargeOut := word32At d 12,
      lowBlock := word16At d 16 }

/-- A work order slot's terms (Table 2.12(10)). -/
def parseTerms (d : List Byte) : OrderTerms where
  number := word32At d 4
  scope := word32At d 8
  perms := byteAt d 1
  windowStart := word32At d 12
  windowEnd := word32At d 16
  maxMinutes := word16At d 2

/-! ## The configuration block (Table 2.12(4)) -/

def parseRegion (b : List Byte) (n : Fin 8) : Region :=
  let o := 0x40 + 8 * n.val
  { base := u32 b o, size := u8 b (o + 4), sup := Attr.ofCode (u8 b (o + 5)), cab := Attr.ofCode (u8 b (o + 6)),
    svc := Attr.ofCode (u8 b (o + 7)) }

def parseGroup (b : List Byte) (g : Grp) : GroupCfg :=
  let o := 0xC0 + 8 * g.val
  { redundancy := u8 b o, headroom := u8 b (o + 1), limit := u8 b (o + 2) }

/-- A string byte of a cabinet entry: 00h–7Fh names a string. -/
def parseStringByte (b : Byte) : Option Str := if h : b.toNat < 128 then some ⟨b.toNat, h⟩ else none

/-- A cabinet entry; an absent cabinet's other fields take no part (R51). -/
def parseCab (b : List Byte) (c : Cab) : CabCfg :=
  let o := 0x100 + 16 * c.val
  if byteAt b o = 1 then
    { present := true, group := Fin.ofNat 8 (u8 b (o + 1)), rated := u16 b (o + 2), minUsable := u8 b (o + 4),
      strings := Tab.gen fun p => parseStringByte (byteAt b (o + 5 + p.val)) }
  else .absent

/-- The fields of a block that has passed validation. -/
def parseBlock (b : List Byte) : Block where
  generation := word16At b 2
  lock := byteAt b 6 = 1
  attention := u8 b 7
  bases := Tab.gen fun k => u32 b (0x10 + 4 * k.val)
  regions := Tab.gen (parseRegion b)
  staleTime := u16 b 0x80
  commandTime := u16 b 0x82
  testMinutes := u16 b 0x84
  idleWarn := u16 b 0x86
  idleEnd := u16 b 0x88
  flushTime := u16 b 0x8A
  deepThreshold := u16 b 0x8C
  passCapacity := u8 b 0x8E
  cyclesWatch := u16 b 0x90
  cyclesDue := u16 b 0x92
  thermalWatch := u16 b 0x94
  thermalDue := u16 b 0x96
  deepWatch := u8 b 0x98
  deepDue := u8 b 0x99
  capacityWatch := u8 b 0x9A
  capacityDue := u8 b 0x9B
  groups := Tab.gen (parseGroup b)
  cabs := Tab.gen (parseCab b)
  capacities := Tab.gen fun s => u16 b (0x300 + 2 * s.val)

end Sys2Proof.Machine
end

