-- ==== Sys2Proof/Machine/TestControl.lean ====
section
/-! DEFINITION. The test controller (07): the judgement and reservation of TEST_START and TEST_STOP, acknowledgments,
measurements, expiries, and the return to IDLE. -/

namespace Sys2Proof.Machine

/-- A refusal: its reason and, for INTERLOCK, SCOPE and STATE, its cause (R11). -/
abbrev Denial := Reason × Option Cause

def interlock (c : Cause) : Denial := (.interlock, some c)

/-- The first check that fails, in order. -/
def firstDenial : List (Bool × Denial) → Option Denial
  | [] => none
  | (holds, d) :: rest => if holds then firstDenial rest else some d

/-- A permission of a console's visit. -/
def Tables.permits (u : Tables) (t : Con) (p : Perm) : Bool := hasBit (u.vis t).perms p.bit

/-! ## Leaving and returning to IDLE (R127 (1), R140) -/

/-- The group's string under test, set or cleared; a change makes the group record urgent (R76 (2)). -/
def Tables.setUnderTest (u : Tables) (g : Grp) (s : Option Str) : Tables :=
  let e := u.grp g
  (u.setGrp g { e with underTest := s }).markIf (.group g) (decide (e.underTest ≠ s)) false

def Tables.setUnderTestOf (u : Tables) (s : Str) (v : Option Str) : Tables :=
  match u.owner s with
  | some c => u.setUnderTest (u.groupOf c) v
  | none => u

def Tables.stopTestTimer (u : Tables) (s : Str) : Tables :=
  match u.owner s with
  | some c => u.setGrp (u.groupOf c) { u.grp (u.groupOf c) with testTimer := none }
  | none => u

/-- The value of TEST_ENDED (R140 (5)). `capacity` is the measured capacity of a test that has just completed. -/
def endedValue (t : TestFields) (capacity : Word16) : Word32 :=
  match t.result with
  | .passed | .failed => capacity.zeroExtend 32
  | .aborted => t.cause.code.zeroExtend 32
  | _ => 0

def endedSeverity : TestResult → Severity
  | .passed | .declined => .notice
  | _ => .warning

/-- A string returns to IDLE, R140 (1) to (5), and the tracker's part of (6). The string ageing unit's part, the usable
mark, follows in `returnIdle`, or at step (6) of a measurement take. -/
def Tables.endTest (u : Tables) (s : Str) (noAck : Bool) (capacity : Word16) : Tables :=
  let u := u.changeTest s { (u.str s).test with state := .idle, awaitFloor := none, awaitSup := none }
  let u := (u.clearAwaitedOf s).stopTestTimer s
  let t := (u.str s).test
  let subject := byteOf s.val
  let u := if noAck then u.journal .noAck .warning subject t.cause.code 0 else u
  let u := u.journal .testEnded (endedSeverity t.result) subject t.result.code (endedValue t capacity)
  u.setUnderTestOf s none

/-- A string returns to IDLE outside a measurement take (R140). -/
def Tables.returnIdle (u : Tables) (s : Str) (noAck : Bool) : Tables :=
  (u.endTest s noAck 0).recomputeMark s

/-! ## TEST_START (R128, R129) -/

/-- The checks of R128 from (3) on, for the string found at the position. `con` is the writing console, if any. -/
def Tables.testStartChecks (u : Tables) (c : Cab) (s : Str) (con : Option Con) : List (Bool × Denial) :=
  let e := u.cab c
  let g := u.groupOf c
  let mode (m : CabMode) : Bool := match e.report with | some r => r.mode == m | none => false
  [ (match con with | some t => u.permits t .test | none => true, interlock .noPermission),
    ((u.str s).age != .retired, interlock .retired),
    (e.fresh, interlock .notFresh),
    ((e.machine == .normal) && mode .onlineInverter, interlock .notNormal),
    ((u.members g).all fun x => (u.cab x).machine == .normal, interlock .groupBusy),
    ((u.grp g).underTest.isNone, interlock .testActive),
    ((u.grp g).state != .utilityLoss, interlock .utilityLoss),
    ((u.marginUnusable g c s).holds, interlock .margin) ]

def starterOf : Option Con → Starter
  | some t => .console t
  | none => .sup

/-- R128: the string and the position of a permitted TEST_START, or the refusal. -/
def Tables.judgeTestStart (u : Tables) (c : Cab) (arg : Byte) (con : Option Con) : Except Denial (Str × Pos) :=
  match parsePos arg with
  | none => .error (.shape, none)
  | some p =>
    match u.stringAt c p with
    | none => .error (interlock .absent)
    | some s =>
      match firstDenial (u.testStartChecks c s con) with
      | some d => .error d
      | none => .ok (s, p)

/-- The reservation of a TEST_START (R129). -/
def Tables.reserveTestStart (u : Tables) (c : Cab) (s : Str) (con : Option Con) : Tables :=
  let g := u.groupOf c
  let u := u.changeTest s
    { state := .requested, charge := 0, suspensions := 0, starter := starterOf con, result := .none, cause := .none,
      awaitFloor := none, awaitSup := none }
  let u := u.setGrp g { u.grp g with testTimer := some (60 * u.limit (·.testMinutes)) }
  ((u.startCmdTimer c).setUnderTest g (some s)).recomputeMark s

/-- TEST_STARTED at the take, if the string is still REQUESTED (R129). -/
def Tables.takeTestStart (u : Tables) (s : Str) (seq : Byte) : Tables :=
  let t := (u.str s).test
  if t.state = .requested then
    u.journal .testStarted .notice (byteOf s.val) t.starter.code (seq.zeroExtend 32)
  else u

/-- The undo of a TEST_START, the command timer already stopped (R129). -/
def Tables.undoTestStart (u : Tables) (s : Str) (saved : TestFields) : Tables :=
  let u := u.changeTest s { saved with state := .idle }
  (((u.stopTestTimer s).clearAwaitedOf s).setUnderTestOf s none).recomputeMark s

/-! ## TEST_STOP (R130) -/

/-- The string named by a TEST_STOP, with its position, or the refusal. -/
def Tables.judgeTestStop (u : Tables) (c : Cab) (arg : Byte) : Except Denial (Str × Pos) :=
  match parsePos arg with
  | none => .error (.shape, none)
  | some p =>
    match u.stringAt c p with
    | none => .error (interlock .absent)
    | some s => .ok (s, p)

/-- The reservation of a TEST_STOP and how it is undone (R130). -/
def Tables.reserveTestStop (u : Tables) (c : Cab) (s : Str) (seq : Byte) : Tables × FloorUndo :=
  let t := (u.str s).test
  let awaited := (u.cab c).supAwaited
  if t.state.live then
    let u := u.changeTest s
      { t with state := .stopping, result := .aborted, cause := .stopped, awaitFloor := some seq, awaitSup := none }
    ((u.clearAwaited c).startCmdTimer c, .stopLive s t awaited)
  else if t.state = .stopping then
    ((u.changeTest s { t with awaitFloor := some seq }).startCmdTimer c, .stopAdded s t.awaitFloor)
  else (u.startCmdTimer c, .stopIdle)

/-- The undo of a stopped live test, the command timer already stopped (R130). -/
def Tables.undoStopLive (u : Tables) (c : Cab) (s : Str) (seq : Byte) (saved : TestFields) (awaited : Bool) : Tables :=
  let t := (u.str s).test
  if t.state = .stopping ∧ t.awaitFloor = some seq then
    let u := u.changeTest s saved
    let u := u.setCab c { u.cab c with supAwaited := awaited }
    match saved.state with
    | .requested | .suspendPending | .resumePending => u.startCmdTimer c
    | _ => u
  else u

/-- The undo of an added floor sequence (R130). -/
def Tables.undoStopAdded (u : Tables) (s : Str) (seq : Byte) (previous : Option Byte) : Tables :=
  let t := (u.str s).test
  if t.awaitFloor = some seq then u.changeTest s { t with awaitFloor := previous } else u

/-! ## Acknowledgments (R131, R135) -/

/-- An acknowledged stop: the string returns to IDLE with a completion report. -/
def Tables.stopAcknowledged (u : Tables) (c : Cab) (s : Str) : Tables :=
  (u.returnIdle s false).completionReport c

/-- The acknowledgment of an outstanding TEST_START or TEST_STOP (R131). -/
def Tables.testAck (u : Tables) (c : Cab) (cmd : FloorCmd) (seq : Byte) (result : FloorResult) : Tables :=
  match cmd with
  | .testStart p =>
    match u.stringAt c p with
    | some s =>
      let t := (u.str s).test
      if result = .declined ∧ t.state = .requested then
        (u.changeTest s { t with result := .declined, cause := .none }).returnIdle s false
      else u
    | none => u
  | .testStop p =>
    match u.stringAt c p with
    | some s =>
      let t := (u.str s).test
      if t.state = .stopping ∧ t.awaitFloor = some seq then u.stopAcknowledged c s else u
    | none => u
  | .toBypass | .toOnline => u

/-- An acknowledged supervisor command moves its string (R135). -/
def Tables.supAcknowledged (u : Tables) (c : Cab) (cmd : SupCmd) (s : Str) (seq : Byte) : Tables :=
  let t := (u.str s).test
  match cmd with
  | .testSuspend =>
    if t.state = .suspendPending then (u.changeTest s { t with state := .suspended }).completionReport c else u
  | .testResume =>
    if t.state = .resumePending then (u.changeTest s { t with state := .running }).completionReport c else u
  | .testStop =>
    if t.state = .stopping ∧ t.awaitSup = some seq then u.stopAcknowledged c s else u

/-- The supervisor ack sequence of a taken status record (R135). -/
def Tables.supAck (u : Tables) (c : Cab) (ack : Byte) : Tables :=
  let e := u.cab c
  if e.supAwaited ∧ e.supSeq = some ack then
    let u := u.clearAwaited c
    match e.supCmd with
    | some (cmd, p) =>
      match u.stringAt c p with
      | some s => u.supAcknowledged c cmd s ack
      | none => u
    | none => u
  else u

/-! ## Measurements (R132, R133) -/

/-- An unsigned sum that saturates at FFFFFFFFh. -/
def satAdd32 (a b : Word32) : Word32 := if a.toNat + b.toNat < 0x100000000 then a + b else 0xFFFFFFFF

/-- The measured capacity in whole percent (R133). For a rated capacity of 0 the rule names no value: FREE VALUE
(notes/assumptions/4.md). -/
def measuredCapacity (charge : Word32) (rated : Word16) : Word16 :=
  if rated = 0 then Config.capacityOfUnratedString charge
  else BitVec.ofNat 16 (min 65535 (charge.toNat / rated.toNat))

/-- A result handed to the string ageing unit (R133 (3)). -/
structure HandedResult where
  passed : Bool
  capacity : Word16
  deriving DecidableEq, Repr

/-- A move to RUNNING or SUSPENDED that confirms the awaited supervisor command, with a completion report (R132). -/
def Tables.confirmed (u : Tables) (s : Str) (t : TestFields) : Tables :=
  ((u.changeTest s t).clearAwaitedOf s).completionReportOf s

/-- R133. -/
def Tables.completeTest (u : Tables) (s : Str) : Tables × Option HandedResult :=
  let e := u.str s
  let capacity := measuredCapacity e.test.charge e.rated
  let passed := decide (u.limit (·.passCapacity) ≤ capacity.toNat)
  let u := u.changeTest s { e.test with result := if passed then .passed else .failed, cause := .none }
  (u.endTest s false capacity, some ⟨passed, capacity⟩)

/-- A held test whose cabinet has recharged or returned to float (R132). -/
def Tables.testEndedByCabinet (u : Tables) (s : Str) : Tables :=
  (u.changeTest s { (u.str s).test with result := .aborted, cause := .conditions }).endTest s false 0

/-- A handed measurement (R132, Table 7.4(1)). -/
def Tables.testMeasured (u : Tables) (s : Str) (mode : MeasMode) (out : Word32) : Tables × Option HandedResult :=
  let t := (u.str s).test
  let added := { t with charge := satAdd32 t.charge out }
  match t.state, mode with
  | .requested, .testDischarge => (u.confirmed s { added with state := .running }, none)
  | .resumePending, .testDischarge => (u.confirmed s { added with state := .running }, none)
  | .running, .testDischarge => (u.changeTest s added, none)
  | .suspendPending, .testDischarge => (u.changeTest s added, none)
  | .suspended, .testDischarge => (u.changeTest s added, none)
  | .suspendPending, .testHold => (u.confirmed s { t with state := .suspended }, none)
  | .running, .recharge => u.completeTest s
  | .suspendPending, .recharge => (u.testEndedByCabinet s, none)
  | .suspended, .recharge => (u.testEndedByCabinet s, none)
  | .resumePending, .recharge => (u.testEndedByCabinet s, none)
  | .suspendPending, .float => (u.testEndedByCabinet s, none)
  | .suspended, .float => (u.testEndedByCabinet s, none)
  | .resumePending, .float => (u.testEndedByCabinet s, none)
  | .stopping, .recharge => ((u.endTest s false 0).completionReportOf s, none)
  | .stopping, .float => ((u.endTest s false 0).completionReportOf s, none)
  | _, _ => (u, none)

/-! ## Expiries (R137 (1), R138, R139) -/

/-- The active test among a cabinet's strings. -/
def Tables.activeOf (u : Tables) (c : Cab) : Option Str := (u.stringsOf c).find? fun s => (u.str s).test.state.active

/-- A cabinet has gone STALE: its live test is stopped (R137 (1)). -/
def Tables.staleTest (u : Tables) (c : Cab) : Tables :=
  match u.activeOf c with
  | some s => if (u.str s).test.state.live then u.stopTest s .cabinet else u
  | none => u

/-- The group test timer has expired (R138). -/
def Tables.groupTestExpired (u : Tables) (g : Grp) : Tables :=
  match (u.grp g).underTest with
  | some s =>
    let st := (u.str s).test.state
    if st.live then u.stopTest s .duration
    else if st = .stopping then u.returnIdle s true
    else u
  | none => u

/-- A command timer expiry handed by the interlock (R139). -/
def Tables.commandExpired (u : Tables) (c : Cab) : Tables :=
  match u.activeOf c with
  | some s =>
    match (u.str s).test.state with
    | .requested | .suspendPending | .resumePending => u.stopTest s .timeout
    | .stopping => u.returnIdle s true
    | .running | .suspended | .idle => u
  | none => u

end Sys2Proof.Machine
end

