-- ==== Sys2Proof/Machine/Interlock.lean ====
section
/-! DEFINITION. The bypass interlock (05): the judgement, reservation, take and undo of floor commands, the
acknowledgment and machine step of a status take, the command timer, and holders. -/

namespace Sys2Proof.Machine

/-! ## Moves of the machine -/

/-- A cabinet's machine and holder set; a change makes its record urgent (R84). -/
def Tables.setMachine (u : Tables) (c : Cab) (m : Xfer) (h : Option Con) : Tables :=
  let e := u.cab c
  (u.setCab c { e with machine := m, holder := h }).markIf (.cabinet c)
    (decide (e.machine ≠ m ∨ e.holder ≠ h)) false

/-- The last landed floor sequence as a journal value. When it is none the rules name no value: FREE VALUE
(notes/assumptions/7.md). -/
def Tables.landedValue (u : Tables) (c : Cab) : Word32 :=
  match (u.cab c).lastSeq with
  | some q => q.zeroExtend 32
  | none => Config.valueOfNoSequence (byteOf c.val)

/-- An interlock entry whose value is the last landed floor sequence. -/
def Tables.journalLanded (u : Tables) (c : Cab) (kind : JKind) (severity : Severity) (detail : Byte) : Tables :=
  u.journal kind severity (byteOf c.val) detail (u.landedValue c)

/-- The holder of every cabinet that names an ended visit's console becomes none (R104). -/
def Tables.releaseHolder (u : Tables) (t : Con) (c : Cab) : Tables :=
  if (u.cab c).holder = some t then u.setMachine c (u.cab c).machine none else u

/-- The cabinets in ascending number. DESIGN CHOICE, unsafe (notes/assumptions/46.md): R104 gives no order. -/
def Tables.releaseHolders (u : Tables) (t : Con) : Tables := allCabs.foldl (fun u c => u.releaseHolder t c) u

/-! ## TO_BYPASS (R90, R91) -/

/-- The open visit that has a cabinet in its scope and carries the BYPASS permission (R90 (4)). -/
def Tables.bypassVisit (u : Tables) (c : Cab) : Option Con :=
  allConsoles.find? fun t =>
    (u.vis t).state.isOpen && hasBit (u.vis t).scope c.val && u.permits t .bypass

/-- R90. -/
def Tables.toBypassChecks (u : Tables) (c : Cab) : List (Bool × Denial) :=
  let e := u.cab c
  let g := u.groupOf c
  let mode (m : CabMode) : Bool := match e.report with | some r => r.mode == m | none => false
  [ (u.present c, interlock .absent),
    (e.fresh, interlock .notFresh),
    ((e.machine == .normal) && mode .onlineInverter, interlock .notNormal),
    ((u.bypassVisit c).isSome, interlock .noVisit),
    (decide (u.bypassCountOf g < (u.grpCfg g).limit), interlock .groupLimit),
    ((u.grp g).underTest.isNone, interlock .testActive),
    ((u.marginWithout g c).holds, interlock .margin) ]

/-- The reservation of a TO_BYPASS (R91). -/
def Tables.reserveToBypass (u : Tables) (c : Cab) : Tables :=
  ((u.setMachine c .xferOut (u.bypassVisit c)).startCmdTimer c).machineMoved c

/-! ## TO_ONLINE (R94, R95) -/

def Xfer.mayReturn : Xfer → Bool
  | .bypass | .unsanctioned | .xferOut => true
  | .absent | .learning | .normal | .xferBack => false

/-- R94. -/
def Tables.toOnlineChecks (u : Tables) (c : Cab) : List (Bool × Denial) :=
  [ (u.present c, interlock .absent), ((u.cab c).machine.mayReturn, interlock .notInBypass) ]

/-- The reservation of a TO_ONLINE (R95). -/
def Tables.reserveToOnline (u : Tables) (c : Cab) : Tables :=
  ((u.setMachine c .xferBack (u.cab c).holder).startCmdTimer c).machineMoved c

/-! ## Refusal, take and undo of a floor command (R86, R92, R93, R96) -/

/-- A floor half refused INTERLOCK (R93). -/
def Tables.floorRefused (u : Tables) (c : Cab) (seq : Byte) (transfer : Bool) (cause : Cause) : Tables :=
  let u := (u.setCab c { u.cab c with refusal := some cause, refusalTime := u.clock }).markUrgent (.cabinet c)
  if transfer then u.journal .xferRefused .notice (byteOf c.val) cause.code (seq.zeroExtend 32) else u

/-- XFER_GRANTED at the take, if the machine is still XFER_OUT (R92). -/
def Tables.takeToBypass (u : Tables) (c : Cab) (seq : Byte) : Tables :=
  let e := u.cab c
  if e.machine = .xferOut then
    u.journal .xferGranted .notice (byteOf c.val) (orFF e.holder) (seq.zeroExtend 32)
  else u

/-- The take effects of each command (R86 (4)). -/
def Tables.takeCommand (u : Tables) (c : Cab) (seq : Byte) : FloorCmd → Tables
  | .toBypass => u.takeToBypass c seq
  | .testStart p => match u.stringAt c p with | some s => u.takeTestStart s seq | none => u
  | .toOnline | .testStop _ => u

/-- A landed floor half (R86). -/
def Tables.takeFloor (u : Tables) (c : Cab) (seq : Byte) (cmd : FloorCmd) (expired : Bool) : Tables :=
  ((u.setCab c { u.cab c with lastSeq := some seq, lastCmd := some cmd, outstanding := !expired }).markUrgent
    (.cabinet c)).takeCommand c seq cmd

/-- The machine returned to a state by an undo, and handed on when it moved (R96, R106). -/
def Tables.undoMachine (u : Tables) (c : Cab) (m : Xfer) (h : Option Con) : Tables :=
  let moved := (u.cab c).machine != m
  let u := u.setMachine c m h
  if moved then u.machineMoved c else u

/-- The holder an undo may restore: a console whose visit is still open (R96). -/
def Tables.stillOpen (u : Tables) (h : Option Con) : Option Con :=
  match h with
  | some t => if (u.vis t).state.isOpen then some t else none
  | none => none

/-- A FAULT undoes a floor command's reservation (R96, R129, R130). -/
def Tables.undoFloor (u : Tables) (c : Cab) (seq : Byte) (undo : FloorUndo) : Tables :=
  let u := u.stopCmdTimer c
  match undo with
  | .toBypass => u.undoMachine c .normal none
  | .toOnline m h =>
    let u := if m = .xferOut then u.startCmdTimer c else u
    u.undoMachine c m (u.stillOpen h)
  | .testStart s saved => u.undoTestStart s saved
  | .stopLive s saved awaited => u.undoStopLive c s seq saved awaited
  | .stopAdded s previous => u.undoStopAdded s seq previous
  | .stopIdle => u

/-! ## Status takes (R87, R97 to R102) -/

/-- The floor acknowledgment of a taken status record: the command it acknowledges, if any (R87). -/
def Tables.floorAck (u : Tables) (c : Cab) (ack : Byte) (result : FloorResult) : Tables × Option FloorCmd :=
  let e := u.cab c
  if e.outstanding ∧ e.lastSeq = some ack then
    let timer := if result = .declined then none else e.cmdTimer
    ((u.setCab c { e with outstanding := false, cmdTimer := timer }).markUrgent (.cabinet c), e.lastCmd)
  else (u, none)

/-- A machine move of a status take: the machine and holder, the chapter's own entry, the hand-on (R106). -/
def Tables.stepTo (u : Tables) (c : Cab) (m : Xfer) (h : Option Con) (entry : Tables → Tables) : Tables :=
  (entry (u.setMachine c m h)).machineMoved c

/-- BYPASS_LEFT, with its severity by its detail (Table 9.5(1)). -/
def Tables.bypassLeft (c : Cab) (detail : Byte) (u : Tables) : Tables :=
  u.journalLanded c .bypassLeft (if detail = 0x01 then .notice else .warning) detail

def leftCommanded : Byte := 0x01
def leftUncommanded : Byte := 0x02
def leftUnsanctioned : Byte := 0x03

/-- The machine step of a status take (Table 5.5(2), R98 to R102). `declined` is the command this take acknowledged
with DECLINED. -/
def Tables.machineStep (u : Tables) (c : Cab) (mode : CabMode) (declined : Option FloorCmd) : Tables :=
  let e := u.cab c
  match e.machine with
  | .learning =>
    if mode = .maintBypass then
      u.stepTo c .bypass none fun u => u.journal .adopted .notice (byteOf c.val) 0 0
    else u.stepTo c .normal none id
  | .normal =>
    if mode = .maintBypass then
      u.stepTo c .unsanctioned none fun u => u.journalLanded c .unsanctioned .critical 0
    else u
  | .xferOut =>
    if mode = .maintBypass then
      (u.stopCmdTimer c).stepTo c .bypass e.holder fun u =>
        u.journalLanded c .bypassEntered .notice (orFF e.holder)
    else if declined = some .toBypass then
      u.stepTo c .normal none fun u => u.journalLanded c .xferDeclined .warning 0x01
    else u
  | .xferBack =>
    if mode = .onlineInverter ∨ mode = .onBattery then
      (u.stopCmdTimer c).stepTo c .normal none (Tables.bypassLeft c leftCommanded)
    else if declined = some .toOnline then
      u.stepTo c .bypass e.holder fun u => u.journalLanded c .xferDeclined .warning 0x02
    else u
  | .bypass => if mode = .maintBypass then u else u.stepTo c .normal none (Tables.bypassLeft c leftUncommanded)
  | .unsanctioned =>
    if mode = .maintBypass then u else u.stepTo c .normal none (Tables.bypassLeft c leftUnsanctioned)
  | .absent => u

/-- The interlock's and the test controller's handling of a taken status record: the floor acknowledgment, its hand-on
to the test controller, the machine step (R97), the supervisor acknowledgment (R69 (4), R131). DESIGN CHOICE, unsafe
(notes/assumptions/48.md): the machine step comes before the supervisor acknowledgment of R135; R131 puts only the floor
acknowledgment before it, and R69 (4) orders neither. -/
def Tables.statusHanded (u : Tables) (c : Cab) (r : StatusRec) : Tables :=
  let (u, acked) := u.floorAck c r.floorAck r.result
  let u :=
    match acked with
    | some cmd => u.testAck c cmd r.floorAck r.result
    | none => u
  let u := u.machineStep c r.mode (if r.result = .declined then acked else none)
  u.supAck c r.supAck

/-! ## The command timer (R89) -/

/-- The expiry of a command timer. -/
def Tables.commandTimerExpired (u : Tables) (c : Cab) : Tables :=
  let u := (u.setCab c { u.cab c with cmdTimer := none, outstanding := false }).markUrgent (.cabinet c)
  let e := u.cab c
  match e.machine with
  | .xferOut => u.stepTo c .normal none fun u => u.journalLanded c .xferTimeout .warning 0
  | .xferBack => u.stepTo c .bypass e.holder fun u => u.journalLanded c .returnTimeout .warning 0
  | _ => u.commandExpired c

/-! ## Status records taken (R69 to R71) -/

/-- A taken status record (R69), with the marks of R70. -/
def Tables.takeStatus (u : Tables) (c : Cab) (r : StatusRec) : Tables :=
  let e := u.cab c
  let report : Report := ⟨r.mode, r.utility⟩
  let u := (u.setCab c { e with report := some report, load := r.load }).markIf (.cabinet c)
    (decide (e.report ≠ some report)) (decide (e.load ≠ r.load))
  let u :=
    if e.fresh then u
    else
      ((u.setCab c { u.cab c with fresh := true }).markUrgent (.cabinet c)).journal .cabFresh .info (byteOf c.val) 0
        (r.load.zeroExtend 32)
  let u := u.setCab c { u.cab c with staleTimer := some (u.limit (·.staleTime)) }
  (u.statusHanded c r).reevalCab c

/-- The expiry of a stale timer (R71). -/
def Tables.staleTimerExpired (u : Tables) (c : Cab) : Tables :=
  let e := u.cab c
  let u := (u.setCab c { e with fresh := false, staleTimer := none }).markUrgent (.cabinet c)
  let u := u.journal .cabStale .warning (byteOf c.val) 0 (e.load.zeroExtend 32)
  (u.reevalCab c).staleTest c

end Sys2Proof.Machine
end

