-- ==== Sys2Proof/Machine/Ageing.lean ====
section
/-! DEFINITION. The string ageing unit (06): accumulators, thresholds, measurement takes, REPLACE and RETIRE. -/

namespace Sys2Proof.Machine

/-! ## Accumulators (R112 to R115) -/

/-- The thermal factor in eighths by temperature in 0.1 °C (Table 6.3(1)). -/
def thermalFactor (t : Int) : Nat :=
  if t ≤ 250 then 8
  else if t ≤ 300 then 11
  else if t ≤ 350 then 16
  else if t ≤ 400 then 23
  else if t ≤ 450 then 32
  else 45

def thermalTop : Nat := 0xFFFFFFFF

/-- R112, with the saturation of R115. -/
def StringEntry.addThermal (e : StringEntry) (r : MeasRec) : StringEntry :=
  let t := r.interval.toNat * thermalFactor r.temperature.toInt + e.remainder.toNat
  let age := e.thermal.toNat + t / 8
  if thermalTop ≤ age then { e with thermal := 0xFFFFFFFF, remainder := 0 }
  else { e with thermal := BitVec.ofNat 32 age, remainder := BitVec.ofNat 3 (t % 8) }

/-- R113. -/
def StringEntry.addCharge (e : StringEntry) (r : MeasRec) : StringEntry :=
  match r.mode with
  | .discharge | .testDischarge => { e with discharged := satAdd32 e.discharged r.chargeOut }
  | _ => e

/-- R114. -/
def StringEntry.addDeep (e : StringEntry) (r : MeasRec) (threshold : Nat) : StringEntry :=
  match r.mode with
  | .discharge =>
    if r.lowBlock.toNat < threshold ∧ e.episode = false then
      { e with deepCount := if e.deepCount = 0xFF then 0xFF else e.deepCount + 1, episode := true }
    else e
  | .float | .recharge => { e with episode := false }
  | _ => e

/-! ## Ageing states (R117 to R120) -/

/-- Causes of AGE_STATE (Table 9.5(1)). -/
inductive AgeCause where
  | measure | test | apply | replace | retire | startUp
  deriving DecidableEq, Repr

def AgeCause.code : AgeCause → Byte
  | .measure => 1 | .test => 2 | .apply => 3 | .replace => 4 | .retire => 5 | .startUp => 6

/-- Equivalent full cycles in hundredths (R108). -/
def StringEntry.cycles (e : StringEntry) : Nat :=
  if e.rated = 0 then 0 else e.discharged.toNat / e.rated.toNat

/-- Thermal hours (R112). -/
def StringEntry.thermalHours (e : StringEntry) : Nat := e.thermal.toNat / 3600

/-- Whether one of the four measures is at its value (R117). -/
def StringEntry.meets (e : StringEntry) (cycles hours deep capacity : Nat) : Bool :=
  decide (cycles ≤ e.cycles) || decide (hours ≤ e.thermalHours) || decide (deep ≤ e.deepCount.toNat) ||
    match e.lastCapacity with
    | some n => decide (n.toNat ≤ capacity)
    | none => false

def Tables.meetsDue (u : Tables) (e : StringEntry) : Bool :=
  e.meets (u.limit (·.cyclesDue)) (u.limit (·.thermalDue)) (u.limit (·.deepDue)) (u.limit (·.capacityDue))

def Tables.meetsWatch (u : Tables) (e : StringEntry) : Bool :=
  e.meets (u.limit (·.cyclesWatch)) (u.limit (·.thermalWatch)) (u.limit (·.deepWatch)) (u.limit (·.capacityWatch))

def ageSeverity : AgeState → Severity
  | .due | .retired => .warning
  | .unverified | .healthy | .watch => .notice

/-- A change of ageing state, journaled (R120). -/
def Tables.setAge (u : Tables) (s : Str) (new : AgeState) (cause : AgeCause) : Tables :=
  let e := u.str s
  (u.setStr s { e with age := new }).journal .ageState (ageSeverity new) (byteOf s.val) cause.code
    (BitVec.ofNat 32 (e.age.code.toNat * 256 + new.code.toNat))

/-- The thresholds applied to a string (R118). -/
def Tables.applyThresholds (u : Tables) (s : Str) (cause : AgeCause) : Tables :=
  let e := u.str s
  match e.age with
  | .healthy =>
    if u.meetsDue e then u.setAge s .due cause
    else if u.meetsWatch e then u.setAge s .watch cause
    else u
  | .watch => if u.meetsDue e then u.setAge s .due cause else u
  | .unverified | .due | .retired => u

/-- A test result handed by the test controller (R119). -/
def Tables.applyResult (u : Tables) (s : Str) (r : HandedResult) : Tables :=
  let u := u.setStr s { u.str s with lastCapacity := some r.capacity }
  if r.passed then
    let u := if (u.str s).age = .unverified then u.setAge s .healthy .test else u
    u.applyThresholds s .test
  else
    match (u.str s).age with
    | .unverified | .healthy | .watch => u.setAge s .due .test
    | .due | .retired => u

/-! ## Marks (R125) -/

/-- R125 (1), for the fields that events other than test moves change. -/
def StringEntry.urgentChange (o n : StringEntry) : Bool :=
  decide (o.age ≠ n.age ∨ o.usable ≠ n.usable ∨ o.lastCapacity ≠ n.lastCapacity ∨ o.rated ≠ n.rated ∨
    o.install ≠ n.install)

/-- R125 (2). -/
def StringEntry.lazyChange (o n : StringEntry) : Bool :=
  decide (o.discharged ≠ n.discharged ∨ o.thermal ≠ n.thermal ∨ o.remainder ≠ n.remainder ∨
    o.deepCount ≠ n.deepCount ∨ o.episode ≠ n.episode ∨ o.lastSeq ≠ n.lastSeq ∨ o.lastMode ≠ n.lastMode)

/-- The string record marked after an event that found the entry `old`. -/
def Tables.markString (u : Tables) (s : Str) (old : StringEntry) : Tables :=
  u.markIf (.string s) (old.urgentChange (u.str s)) (old.lazyChange (u.str s))

/-! ## Measurements (R109 to R111, R116) -/

/-- The checks of R109 (3), (4); the string number and the mode are judged before. -/
def Tables.measurementChecks (u : Tables) (s : Str) (r : MeasRec) : List (Bool × Denial) :=
  [ (decide (1 ≤ r.interval.toNat ∧ r.interval.toNat ≤ 3600), (.shape, none)),
    ((u.str s).age != .retired, (.state, some .retired)) ]

/-- R110. -/
def Tables.duplicate (u : Tables) (s : Str) (seq : Byte) : Bool := (u.str s).lastSeq == some seq

/-- R116. -/
def Tables.unplannedTest (u : Tables) (s : Str) (r : MeasRec) : Tables :=
  if (r.mode = .testDischarge ∨ r.mode = .testHold) ∧ (u.str s).test.state = .idle then
    u.journal .unplannedTest .warning (byteOf s.val) r.mode.code (r.seq.zeroExtend 32)
  else u

/-- Steps (1) and (2) of R111. -/
def StringEntry.measured (e : StringEntry) (r : MeasRec) (threshold : Nat) : StringEntry :=
  { ((e.addThermal r).addCharge r).addDeep r threshold with lastSeq := some r.seq, lastMode := some r.mode }

/-- Step (5) of R111. -/
def Tables.handMeasurement (u : Tables) (s : Str) (r : MeasRec) : Tables :=
  let (u, handed) := u.testMeasured s r.mode r.chargeOut
  match handed with
  | some result => u.applyResult s result
  | none => u

/-- A taken measurement (R111). -/
def Tables.takeMeasurement (u : Tables) (s : Str) (r : MeasRec) : Tables :=
  let old := u.str s
  let u := u.setStr s (old.measured r (u.limit (·.deepThreshold)))
  let u := (u.unplannedTest s r).applyThresholds s .measure
  ((u.handMeasurement s r).recomputeMark s).markString s old

/-! ## REPLACE and RETIRE (R121 to R123) -/

/-- R121 (1). -/
def replaceCheck (capacity : Word16) : Bool × Denial :=
  (decide (capacity.toNat = 0 ∨ 10 ≤ capacity.toNat ∧ capacity.toNat ≤ 3000), (.shape, none))

/-- R121 (2). -/
def Tables.retireCheck (u : Tables) (s : Str) : Bool × Denial :=
  let a := (u.str s).age
  ((a == .healthy) || (a == .watch) || (a == .due), (.state, some .retired))

/-- R122. -/
def Tables.takeReplace (u : Tables) (s : Str) (capacity : Word16) : Tables :=
  let e := u.str s
  let u := u.setStr s
    { e with
      discharged := 0, thermal := 0, remainder := 0, deepCount := 0, episode := false, lastCapacity := none,
      lastSeq := none, lastMode := none, install := u.clock, rated := if capacity = 0 then e.rated else capacity }
  ((u.setAge s .unverified .replace).recomputeMark s).markUrgent (.string s)

/-- R123. -/
def Tables.takeRetire (u : Tables) (s : Str) : Tables :=
  ((u.setAge s .retired .retire).recomputeMark s).markUrgent (.string s)

end Sys2Proof.Machine
end

