-- ==== Sys2Proof/Machine/Visits.lean ====
section
/-! DEFINITION. The visit controller (08): work orders, the spent list, visits, their timers and their ends, the
service key. -/

namespace Sys2Proof.Machine

/-! ## Entries and their marks (R143, R147, R148) -/

/-- A visit entry changed, with the marks of R148. -/
def Tables.changeVisit (u : Tables) (t : Con) (v : Visit) : Tables :=
  let o := u.vis t
  let urgent := decide (o.state ≠ v.state ∨ o.reason ≠ v.reason ∨ o.order ≠ v.order ∨ o.badge ≠ v.badge ∨
    o.scope ≠ v.scope ∨ o.perms ≠ v.perms ∨ o.openTime ≠ v.openTime ∨ o.lastReq ≠ v.lastReq ∨
    o.lastResult ≠ v.lastResult)
  (u.setVis t v).markIf (.visit t) urgent (decide (o.activity ≠ v.activity))

/-- A work order entry changed, with the mark of R143. -/
def Tables.changeOrder (u : Tables) (n : Slot) (o : Order) : Tables :=
  let old := u.ord n
  (u.setOrd n o).markIf (.order n)
    (decide (old.state ≠ o.state ∨ old.bound ≠ o.bound ∨ old.number ≠ o.number)) false

def spentLimit : Nat := 16

/-- The list after a number joins it (R147). -/
def spentJoin (l : List Word32) (n : Word32) : List Word32 :=
  if l.contains n then l else (if spentLimit ≤ l.length then l.drop 1 else l) ++ [n]

/-- A number joins the spent list (R147). -/
def Tables.joinSpent (u : Tables) (n : Word32) : Tables :=
  let l := spentJoin u.spent n
  ({ u with spent := l }).markIf .spentList (decide (l ≠ u.spent)) false

/-- A visit's last result (R149). -/
def Tables.setResult (u : Tables) (t : Con) (r : VisitResult) : Tables :=
  u.changeVisit t { u.vis t with lastResult := some r }

/-- The take of a visit request: its sequence and the result DONE (R149). -/
def Tables.requestTaken (u : Tables) (t : Con) (seq : Byte) : Tables :=
  u.changeVisit t { u.vis t with lastReq := some seq, lastResult := some (Reply.done 0 []).result }

/-! ## The end of a visit (R157) -/

/-- The slot whose order is IN_USE, bound to a console. -/
def Tables.boundSlot (u : Tables) (t : Con) : Option Slot :=
  allSlots.find? fun n => (u.ord n).state == .inUse && (u.ord n).bound == some t

def endSeverity : EndReason → Severity
  | .closed => .notice
  | _ => .warning

/-- The visit entry of an ended visit, R157 (1), (2). -/
def Visit.ended (v : Visit) (reason : EndReason) : Visit :=
  { v with state := .ended, reason, warnTimer := none, endTimer := none, durTimer := none }

/-- R157 (3). -/
def Tables.releaseOrder (u : Tables) (t : Con) (final : OrderState) : Tables :=
  match u.boundSlot t with
  | some n => u.changeOrder n { u.ord n with state := final, bound := none }
  | none => u

/-- The end of console t's open visit; `final` is the state its order takes (R157). Its spent-list record is marked
also when the list held the number already (R157 (7)). A visit that is not open is left as it is. -/
def Tables.endVisit (u : Tables) (t : Con) (reason : EndReason) (final : OrderState) : Tables :=
  let v := u.vis t
  if v.state.isOpen then
    let u := (u.changeVisit t (v.ended reason)).releaseOrder t final
    (((u.joinSpent v.order).markUrgent .spentList).releaseHolders t).journal .visitEnded (endSeverity reason)
      (byteOf t.val) reason.code v.order
  else u

/-- Every open visit ends, in ascending console order (R142 (1), R181). -/
def Tables.endAllVisits (u : Tables) (reason : EndReason) : Tables :=
  allConsoles.foldl (fun u t => u.endVisit t reason .spent) u

/-! ## Work orders (R144 to R146) -/

/-- The fields of a WORKORD write; the request codes are those of Table 2.12(10) (R144). -/
def orderFieldChecks (request : Byte) (t : OrderTerms) : List (Bool × Denial) :=
  let offer := request = 1
  [ (decide (request = 1 ∨ request = 2 ∨ request = 3), (.shape, none)),
    (decide (t.perms.toNat < 16), (.shape, none)),
    (decide (request = 3 ∨ t.number ≠ 0), (.shape, none)),
    (decide (¬offer ∨ 1 ≤ t.maxMinutes.toNat ∧ t.maxMinutes.toNat ≤ 720), (.shape, none)) ]

/-- Some other slot holds an order number OFFERED or IN_USE. -/
def Tables.orderElsewhere (u : Tables) (n : Slot) (number : Word32) : Bool :=
  allSlots.any fun m =>
    m != n && (u.ord m).number == number && ((u.ord m).state == .offered || (u.ord m).state == .inUse)

/-- R145. -/
def Tables.offerChecks (u : Tables) (n : Slot) (t : OrderTerms) : List (Bool × Denial) :=
  [ ((u.ord n).state != .inUse, (.busy, none)),
    (!u.spent.contains t.number, (.state, some .orderSpent)),
    (!u.orderElsewhere n t.number, (.state, some .orderInUse)) ]

/-- R146, WITHDRAW. -/
def Tables.withdrawChecks (u : Tables) (n : Slot) (t : OrderTerms) : List (Bool × Denial) :=
  let o := u.ord n
  [ ((o.state == .offered || o.state == .inUse) && o.number == t.number, (.state, some .notOffered)) ]

/-- R146, CLEAR. -/
def Tables.clearChecks (u : Tables) (n : Slot) : List (Bool × Denial) :=
  [((u.ord n).state != .inUse, (.busy, none))]

/-- The entry of an offered order (R145). -/
def OrderTerms.offered (t : OrderTerms) : Order where
  state := .offered
  number := t.number
  scope := t.scope
  perms := t.perms
  windowStart := t.windowStart
  windowEnd := t.windowEnd
  maxMinutes := t.maxMinutes
  bound := none

def Tables.takeOffer (u : Tables) (n : Slot) (t : OrderTerms) : Tables := u.changeOrder n t.offered

/-- R146, the take of a WITHDRAW. -/
def Tables.takeWithdraw (u : Tables) (n : Slot) : Tables :=
  let o := u.ord n
  match o.state with
  | .inUse =>
    match o.bound with
    | some t => u.endVisit t .revoked .withdrawn
    | none => u
  | .offered | .spent => u.changeOrder n { o with state := .withdrawn }
  | .empty | .withdrawn => u

/-- R146, the take of a CLEAR. -/
def Tables.takeClear (u : Tables) (n : Slot) : Tables := u.changeOrder n .reset

/-! ## OPEN (R150, R151) -/

/-- The slot that holds an order number in a state; the lowest where recall has restored two: DESIGN CHOICE, unsafe
(notes/assumptions/37.md). -/
def Tables.slotWith (u : Tables) (number : Word32) (st : OrderState) : Option Slot :=
  allSlots.find? fun n => (u.ord n).state == st && (u.ord n).number == number

/-- The cause when no slot offers an order number (R150 (2)). -/
def Tables.notOfferedCause (u : Tables) (number : Word32) : Cause :=
  if (u.slotWith number .inUse).isSome then .orderInUse
  else if u.spent.contains number then .orderSpent
  else .notOffered

/-- R150 (3) to (6), for the order found. -/
def Tables.openChecks (u : Tables) (o : Order) (badge : Word32) : List (Bool × Denial) :=
  let opened (f : Visit → Bool) : Bool := allConsoles.any fun x => (u.vis x).state.isOpen && f (u.vis x)
  [ (u.synced, (.state, some .clock)),
    (decide (o.windowStart.toNat ≤ u.clock.toNat ∧ u.clock.toNat < o.windowEnd.toNat), (.state, some .window)),
    (!opened fun v => v.badge == badge, (.state, some .badgeInUse)),
    (!opened fun v => v.scope &&& o.scope != 0, (.scope, some .scopeOverlap)) ]

/-- R150: the slot of a permitted OPEN, or the refusal. -/
def Tables.judgeOpen (u : Tables) (t : Con) (number badge : Word32) : Except Denial Slot :=
  if (u.vis t).state.isOpen then .error (.state, some .visitActive)
  else
    match u.slotWith number .offered with
    | none => .error (.state, some (u.notOfferedCause number))
    | some n =>
      match firstDenial (u.openChecks (u.ord n) badge) with
      | some d => .error d
      | none => .ok n

/-- The reservation of an OPEN (R151). -/
def Tables.reserveOpen (u : Tables) (t : Con) (n : Slot) (badge : Word32) : Tables :=
  let o := u.ord n
  let v := u.vis t
  let u := u.changeVisit t
    { v with
      state := .opened, order := o.number, badge, scope := o.scope, perms := o.perms, reason := .none,
      openTime := u.clock, activity := u.clock, warnTimer := some (u.limit (·.idleWarn)),
      endTimer := some (u.limit (·.idleEnd)), durTimer := some (60 * o.maxMinutes.toNat) }
  u.changeOrder n { o with state := .inUse, bound := some t }

/-- The take of an OPEN (R151). -/
def Tables.takeOpen (u : Tables) (t : Con) (seq : Byte) : Tables :=
  let u := u.requestTaken t seq
  let v := u.vis t
  if v.state.isOpen then
    u.journal .visitOpened .notice (byteOf t.val) v.perms v.order
  else u

/-- The undo of an OPEN (R151). -/
def Tables.undoOpen (u : Tables) (t : Con) (n : Slot) (saved : Visit) : Tables :=
  if (u.vis t).state.isOpen then
    (u.changeVisit t { saved with warnTimer := none, endTimer := none, durTimer := none }).changeOrder n
      { u.ord n with state := .offered, bound := none }
  else u

/-! ## CLOSE, REPLACE, RETIRE (R155, R158, R159) -/

/-- R155. -/
def Tables.closeChecks (u : Tables) (t : Con) : List (Bool × Denial) :=
  [ ((u.vis t).state.isOpen, (.state, some .noVisit)),
    (!allCabs.any fun c => (u.cab c).holder == some t, (.state, some .cabinetHeld)) ]

def Tables.takeClose (u : Tables) (t : Con) (seq : Byte) : Tables :=
  (u.requestTaken t seq).endVisit t .closed .spent

/-- R158 (1) to (6). -/
def Tables.workChecks (u : Tables) (t : Con) (perm : Perm) (s : Str) : List (Bool × Denial) :=
  let v := u.vis t
  let ofOwner (f : Cab → Bool) : Bool := match u.owner s with | some c => f c | none => false
  [ (v.state.isOpen, (.state, some .noVisit)),
    (u.permits t perm, interlock .noPermission),
    ((u.owner s).isSome, interlock .absent),
    (ofOwner fun c => hasBit v.scope c.val, (.scope, some .outOfScope)),
    (ofOwner fun c => (u.cab c).machine == .bypass && (u.cab c).holder == some t, interlock .notInBypass),
    ((u.str s).test.state == .idle, interlock .testActive) ]

def Tables.replaceChecks (u : Tables) (t : Con) (s : Str) (capacity : Word16) : List (Bool × Denial) :=
  u.workChecks t .replace s ++ [replaceCheck capacity]

def Tables.retireChecks (u : Tables) (t : Con) (s : Str) : List (Bool × Denial) :=
  u.workChecks t .retire s ++ [u.retireCheck s]

/-! ## Activity, timers, key (R142, R152 to R154) -/

/-- An activity notice for a console with an open visit (R152). -/
def Tables.activity (u : Tables) (t : Con) : Tables :=
  let v := u.vis t
  if v.state.isOpen then
    u.changeVisit t
      { v with
        state := .opened, activity := u.clock, warnTimer := some (u.limit (·.idleWarn)),
        endTimer := some (u.limit (·.idleEnd)) }
  else u

/-- The notice of an accepted SVC frame; a tag above 3 is disregarded (R9). -/
def Tables.activityNotice (u : Tables) (tag : Byte) : Tables :=
  if h : tag.toNat < 4 then u.activity ⟨tag.toNat, h⟩ else u

/-- The expiry of an idle warn timer (R153). -/
def Tables.idleWarnExpired (u : Tables) (t : Con) : Tables :=
  let v := { u.vis t with warnTimer := none }
  if v.state = .opened then
    (u.changeVisit t { v with state := .warned }).journal .visitWarned .notice (byteOf t.val) 0 v.order
  else u.setVis t v

/-- The expiry of an idle end timer (R154). -/
def Tables.idleEndExpired (u : Tables) (t : Con) : Tables :=
  (u.setVis t { u.vis t with endTimer := none }).endVisit t .idle .spent

/-- The expiry of a duration timer (R154). -/
def Tables.durationExpired (u : Tables) (t : Con) : Tables :=
  (u.setVis t { u.vis t with durTimer := none }).endVisit t .duration .spent

/-- A key change to LOCKED (R142 (1)). -/
def Tables.keyLocked (u : Tables) : Tables := ({ u with key := .locked }).endAllVisits .key

end Sys2Proof.Machine
end

