-- ==== Sys2Proof/Machine/Records.lean ====
section
/-! DEFINITION. The bytes and addresses of the part's own records: part records, supervisor halves and journal entries
(R162, Tables 2.12(7), 2.12(11) to 2.12(15)). -/

namespace Sys2Proof.Machine

/-! ## Areas (Tables 2.2(1), 2.12(4)) -/

def Area.index : Area → Fin 7
  | .cabstat => 0 | .cabcmd => 1 | .measure => 2 | .visit => 3 | .workord => 4 | .ctrl => 5 | .state => 6

def Area.size : Area → Nat
  | .cabstat => 0x400 | .cabcmd => 0x200 | .measure => 0x1000 | .visit => 0x80 | .workord => 0x100 | .ctrl => 0x40
  | .state => 0x4000

def allAreas : List Area := [.cabstat, .cabcmd, .measure, .visit, .workord, .ctrl, .state]

def Block.base (b : Block) (a : Area) : Nat := b.bases.at' a.index

/-- An area's base in the active configuration; used only while one is active. -/
def Tables.base (u : Tables) (a : Area) : Nat := u.limit (·.base a)

/-! ## Part records (R162) -/

def Tables.headerBytes (u : Tables) : List Byte :=
  let w := u.writer
  withCheck ([0x4B, 0x32, 0x02, w.status.code] ++ le32 u.clock ++ [bit u.synced, bit w.latch] ++ le16 w.headerGen ++
    [w.applyResult.code, 0] ++ le16 w.failOffset ++ zeros 47)

def Tables.cabinetBytes (u : Tables) (c : Cab) : List Byte :=
  let e := u.cab c
  let mode := match e.report with | some r => r.mode.code | none => 0xFF
  let utility := match e.report with | some r => r.utility.code | none => 0xFF
  let load := match e.report with | some _ => e.load | none => 0
  let refusal := match e.refusal with | some k => k.code | none => 0
  withCheck ([byteOf c.val, e.machine.code, bit e.fresh, orFF e.holder, mode, utility] ++ le16 load ++
    [orZero e.lastSeq, orZero e.supSeq, bit e.outstanding, bit e.supporting, byteOf e.usableCount, refusal,
      e.presenceBits, 0] ++ le32 e.refusalTime ++ zeros 11)

def Tables.groupBytes (u : Tables) (g : Grp) : List Byte :=
  let e := u.grp g
  [e.state.code, byteOf e.supCount, byteOf e.bypassCount, orFF e.underTest] ++ le32 (BitVec.ofNat 32 e.load) ++
    le32 (BitVec.ofInt 32 e.margin) ++ zeros 4

def VisitResult.bytes : Option VisitResult → List Byte
  | some r => [r.status, r.reason, r.detail]
  | none => [0, 0, 0]

def Tables.visitBytes (u : Tables) (t : Con) : List Byte :=
  let v := u.vis t
  withCheck ([v.state.code, v.reason.code, v.perms, orZero v.lastReq] ++ le32 v.order ++ le32 v.badge ++ le32 v.scope ++
    le32 v.openTime ++ le32 v.activity ++ VisitResult.bytes v.lastResult ++ [v.presenceBits] ++ zeros 35)

def Tables.orderBytes (u : Tables) (n : Slot) : List Byte :=
  let o := u.ord n
  withCheck ([o.state.code, orFF o.bound, 0, 0] ++ le32 o.number ++ zeros 7)

def Tables.spentBytes (u : Tables) : List Byte :=
  (u.spent.map le32).flatten ++ zeros (64 - 4 * u.spent.length)

def Tables.journalHeaderBytes (u : Tables) : List Byte :=
  match u.writer.head with
  | some h =>
    le32 h.nextSeq ++ [h.nextPos, 0] ++ le16 (BitVec.ofNat 16 h.unconsumed) ++ [orZero u.lastConsumed, 0, bit h.lost] ++
      zeros 21
  | none => zeros 32

def orMode (m : Option MeasMode) : Byte := match m with | some k => k.code | none => 0xFF

def Tables.stringBytes (u : Tables) (s : Str) : List Byte :=
  let e := u.str s
  let t := e.test
  withCheck ([byteOf s.val, e.age.code, t.state.code, byteOf t.suspensions] ++ le16 e.rated ++
    [e.deepCount, e.flagBits] ++ le32 e.discharged ++ le32 e.thermal ++ le32 e.install ++ le32 t.charge ++
    le16 (e.lastCapacity.getD 0) ++ [orZero e.lastSeq, orMode e.lastMode, t.starter.code, t.result.code, t.cause.code])

/-- A part record's contents as they stand (R162). -/
def Tables.recordBytes (u : Tables) : RecId → List Byte
  | .header => u.headerBytes
  | .cabinet c => u.cabinetBytes c
  | .group g => u.groupBytes g
  | .visit t => u.visitBytes t
  | .order n => u.orderBytes n
  | .spentList => u.spentBytes
  | .journalHeader => u.journalHeaderBytes
  | .string s => u.stringBytes s

/-- A part record's offset in the STATE area (Table 2.12(14)). -/
def RecId.offset : RecId → Nat
  | .header => 0x0000
  | .cabinet c => 0x0040 + 32 * c.val
  | .group g => 0x0440 + 16 * g.val
  | .visit t => 0x04C0 + 64 * t.val
  | .order n => 0x05C0 + 16 * n.val
  | .spentList => 0x0640
  | .journalHeader => 0x0680
  | .string s => 0x0800 + 32 * s.val

/-- A cabinet's supervisor half (Table 2.12(7)). -/
def Tables.halfBytes (u : Tables) (c : Cab) : List Byte :=
  let e := u.cab c
  let cmd := match e.supCmd with | some (k, _) => k.code | none => 0
  let arg := match e.supCmd with | some (_, p) => byteOf p.val | none => 0
  withCheck ([orZero e.supSeq, cmd, arg] ++ zeros 4)

/-- A journal entry (Table 2.12(15)). -/
def JEntry.bytes (e : JEntry) : List Byte :=
  le32 e.seq ++ le32 e.time ++ [e.kind, e.severity, e.subject, e.detail] ++ le32 e.value

/-- The offset of a ring position (Table 2.12(14)). -/
def ringOffset (pos : Byte) : Nat := 0x1800 + 16 * pos.toNat

/-- The address and bytes of one write of the record writer, as both stand at its grant (R162, R164, R166). -/
def Tables.jobWrite (u : Tables) : WriterJob → Nat × List Byte
  | .record r => (u.base .state + r.offset, u.recordBytes r)
  | .half c => (u.base .cabcmd + 16 * c.val + 8, u.halfBytes c)
  | .pending e => (u.base .state + ringOffset e.pos, e.entry.bytes)
  | .span e => (u.base .state + ringOffset e.pos, e.entry.bytes)
  | .haltedHeader => (u.base .state, u.headerBytes)

/-- The record code and record number WRITER_FAULT carries (Tables 9.5(1), 9.5(2)). -/
def RecId.faultCode : RecId → Byte × Byte
  | .header => (0x01, 0)
  | .cabinet c => (0x02, byteOf c.val)
  | .group g => (0x03, byteOf g.val)
  | .visit t => (0x04, byteOf t.val)
  | .order n => (0x05, byteOf n.val)
  | .spentList => (0x06, 0)
  | .journalHeader => (0x07, 0)
  | .string s => (0x08, byteOf s.val)

end Sys2Proof.Machine
end

