-- ==== Sys2Proof/Machine/Loader.lean ====
section
/-! DEFINITION. The configuration loader's judgement of a block (03): validation (R51, R52) and activity conflicts
(R53). -/

namespace Sys2Proof.Machine

/-- Bytes of the configuration block. -/
def blockSize : Nat := 1024

/-! ## Address ranges (R52) -/

/-- An address range: its base and its size. -/
abbrev Range := Nat × Nat

def Range.overlaps (a b : Range) : Bool := decide (a.1 < b.1 + b.2 ∧ b.1 < a.1 + a.2)

def Range.clear (r : Range) (before : List Range) : Bool := before.all fun x => !r.overlaps x

def windowRange : Range := (0, Config.windowSize)

/-- High byte 00h, aligned to its size, wholly below 100000h. -/
def Range.placed (r : Range) : Bool := decide (r.1 < 0x1000000 ∧ r.1 % r.2 = 0 ∧ r.1 + r.2 ≤ Config.memorySize)

def rawArea (b : List Byte) (a : Area) : Range := (u32 b (0x10 + 4 * a.index.val), a.size)

/-- The size of an enabled region (Table 2.3(1)). -/
def regionSize (code : Nat) : Nat := 0x80 <<< code

def rawRegionCode (b : List Byte) (n : Fin 8) : Nat := u8 b (0x44 + 8 * n.val)

def rawRegion (b : List Byte) (n : Fin 8) : Range := (u32 b (0x40 + 8 * n.val), regionSize (rawRegionCode b n))

def enabledRegions (b : List Byte) : List (Fin 8) := allGroups.filter fun n => rawRegionCode b n != 0

/-! ## Validation (R51) -/

/-- A check and its failing field offset. -/
abbrev Check := Bool × Nat

def within (lo hi n : Nat) : Bool := decide (lo ≤ n ∧ n ≤ hi)

/-- Check 4. -/
def areaChecks (b : List Byte) : List Check :=
  allAreas.map fun a =>
    let r := rawArea b a
    let lower := (allAreas.take a.index.val).map (rawArea b)
    (r.placed && r.clear (windowRange :: lower), 0x10 + 4 * a.index.val)

/-- Checks 5 to 7. -/
def regionChecks (b : List Byte) : List Check :=
  (allGroups.map fun n => (within 0 12 (rawRegionCode b n), 0x44 + 8 * n.val)) ++
  ((enabledRegions b).map fun n =>
    let r := rawRegion b n
    let lower := ((enabledRegions b).filter fun m => decide (m.val < n.val)).map (rawRegion b)
    (r.placed && r.clear (windowRange :: allAreas.map (rawArea b) ++ lower), 0x40 + 8 * n.val)) ++
  ((enabledRegions b).map fun n =>
    [5, 6, 7].map fun k => (within 0 3 (u8 b (0x40 + k + 8 * n.val)), 0x40 + k + 8 * n.val)).flatten

/-- Checks 8 to 19. -/
def limitChecks (b : List Byte) : List Check :=
  [ (within 2 120 (u16 b 0x80), 0x80),
    (within 5 600 (u16 b 0x82), 0x82),
    (within 10 1440 (u16 b 0x84), 0x84),
    (within 60 3600 (u16 b 0x86), 0x86),
    (within (u16 b 0x86 + 1) 7200 (u16 b 0x88), 0x88),
    (within 10 3600 (u16 b 0x8A), 0x8A),
    (within 1 100 (u8 b 0x8E), 0x8E),
    (decide (u16 b 0x90 ≤ u16 b 0x92), 0x92),
    (decide (u16 b 0x94 ≤ u16 b 0x96), 0x96),
    (decide (u8 b 0x98 ≤ u8 b 0x99), 0x99),
    (decide (u8 b 0x9A ≤ 100), 0x9A),
    (decide (u8 b 0x9B < u8 b 0x9A), 0x9B) ]

/-- Check 20. -/
def groupChecks (b : List Byte) : List Check :=
  (allGroups.map fun g =>
    let o := 0xC0 + 8 * g.val
    [(within 0 2 (u8 b o), o), (within 0 50 (u8 b (o + 1)), o + 1), (within 1 2 (u8 b (o + 2)), o + 2)]).flatten

def cabOffset (c : Cab) : Nat := 0x100 + 16 * c.val

def rawPresent (b : List Byte) : List Cab := allCabs.filter fun c => u8 b (cabOffset c) = 1

/-- A string byte of a cabinet entry, with its place. -/
def rawString (b : List Byte) (c : Cab) (p : Pos) : Nat := u8 b (cabOffset c + 5 + p.val)

/-- The string bytes a present cabinet's entry holds before position `p`, and those of present cabinets of lower
number. -/
def earlierStrings (b : List Byte) (c : Cab) (p : Pos) : List Nat :=
  ((rawPresent b).filter fun d => decide (d.val < c.val)).flatMap (fun d => allPositions.map (rawString b d)) ++
    (allPositions.take p.val).map (rawString b c)

/-- Check 23 at one position. -/
def stringCheck (b : List Byte) (c : Cab) (p : Pos) : Bool :=
  let v := rawString b c p
  if v = 0xFF then (allPositions.drop p.val).all fun q => rawString b c q = 0xFF
  else decide (v < 128) && !(earlierStrings b c p).contains v

def rawListed (b : List Byte) (c : Cab) : List Nat :=
  (allPositions.map (rawString b c)).filter fun v => decide (v < 128)

/-- Checks 21 to 25. -/
def cabinetChecks (b : List Byte) : List Check :=
  (allCabs.map fun c => (within 0 1 (u8 b (cabOffset c)), cabOffset c)) ++
  ((rawPresent b).map fun c =>
    let o := cabOffset c
    [(within 0 7 (u8 b (o + 1)), o + 1), (within 10 1000 (u16 b (o + 2)), o + 2)]).flatten ++
  ((rawPresent b).map fun c => allPositions.map fun p => (stringCheck b c p, cabOffset c + 5 + p.val)).flatten ++
  ((rawPresent b).map fun c =>
    (within 1 (rawListed b c).length (u8 b (cabOffset c + 4)), cabOffset c + 4)) ++
  (allStrings.map fun s =>
    let listed := (rawPresent b).any fun c => (rawListed b c).contains s.val
    (!listed || within 10 3000 (u16 b (0x300 + 2 * s.val)), 0x300 + 2 * s.val))

/-- Table 3.3(1), in order. -/
def validationChecks (b : List Byte) : List Check :=
  [(decide (u8 b 0 = 1), 0x000), (within 0 1 (u8 b 6), 0x006), (within 0 3 (u8 b 7), 0x007)] ++
    areaChecks b ++ regionChecks b ++ limitChecks b ++ groupChecks b ++ cabinetChecks b

/-- The failing field offset of the first check that fails; none for a valid block. -/
def validate (b : List Byte) : Option Nat := ((validationChecks b).find? fun k => !k.1).map (·.2)

/-! ## Activity conflicts (R53) -/

/-- The conditions of R53 (1), (2) for a cabinet of the active configuration. -/
def Tables.cabBusy (u : Tables) (c : Cab) : Bool :=
  let m := (u.cab c).machine
  (m != .normal && m != .learning) ||
    allConsoles.any (fun t => (u.vis t).state.isOpen && hasBit (u.vis t).scope c.val) ||
    (u.activeOf c).isSome

/-- The conflict at a cabinet, if any: its failing field offset. -/
def Tables.cabConflict (u : Tables) (b : Block) (c : Cab) : Option Nat :=
  let o := u.cabCfg c
  let n := b.cabs.at' c
  if !o.present then none
  else if !n.present then if u.cabBusy c then some (cabOffset c) else none
  else if (o.group != n.group) && u.cabBusy c then some (cabOffset c + 1)
  else if (u.activeOf c).isSome then
    (allPositions.find? fun p => o.strings.at' p != n.strings.at' p).map fun p => cabOffset c + 5 + p.val
  else none

/-- The conditions of R53 (4). -/
def Tables.floorBusy (u : Tables) : Bool :=
  allConsoles.any (fun t => (u.vis t).state.isOpen) || allStrings.any (fun s => (u.str s).test.state.active) ||
    allCabs.any fun c => (u.cab c).machine == .xferOut || (u.cab c).machine == .xferBack

def Tables.areaConflict (u : Tables) (b : Block) (a : Area) : Option Nat :=
  if (b.base a != u.base a) && u.floorBusy then some (0x10 + 4 * a.index.val) else none

/-- The first conflict of R53; none when there is none, or when no configuration is active. -/
def Tables.conflict (u : Tables) (b : Block) : Option Nat :=
  if u.nomap then none
  else
    match allCabs.findSome? (u.cabConflict b) with
    | some o => some o
    | none => allAreas.findSome? (u.areaConflict b)

/-- The decision at the end of an apply (R54). -/
inductive Verdict where
  | applied (b : Block)
  | invalid (offset : Nat)
  | busy (offset : Nat)
  deriving DecidableEq, Repr

/-- The decision at the end of the read phase (R51, R53). -/
def Tables.judgeBlock (u : Tables) (bytes : List Byte) : Verdict :=
  match validate bytes with
  | some o => .invalid o
  | none =>
    let b := parseBlock bytes
    match u.conflict b with
    | some o => .busy o
    | none => .applied b

end Sys2Proof.Machine
end

