-- ==== Sys2Proof/Machine/Apply.lean ====
section
/-! DEFINITION. The apply operation (03): its start, its reads, its end, and the hand-over of a configuration that
takes effect. -/

namespace Sys2Proof.Machine

def blockReads : List LoaderRead := [.block 0, .block 1, .block 2, .block 3]

/-- An apply begins READING (R47). -/
def Tables.startApply (u : Tables) : Tables :=
  { u with apply := some { todo := blockReads, block := [], commands := [], orders := [] } }

/-- The address of a loader read of 256 bytes (R47, R48). -/
def LoaderRead.addr : LoaderRead → Nat
  | .block i => 0x100 * i.val
  | .cabcmd base half => base + 0x100 * half.val
  | .workord base => base

def readSize : Nat := 256

/-! ## The generation copy (R41) -/

/-- The copy's bytes taken from the first block read answered OK. -/
def Tables.copyGeneration (u : Tables) (bytes : List Byte) : Tables :=
  { u with genLow := some (byteAt bytes 2), genHigh := some (byteAt bytes 3) }

/-! ## The read list (R48) -/

/-- The base a block carries for an area, when a re-read is to be added for it (R48). -/
def Tables.movedBase (u : Tables) (bytes : List Byte) (a : Area) : Option Nat :=
  let r := rawArea bytes a
  if !u.nomap && (r.1 != u.base a) && r.placed then some r.1 else none

/-- The re-reads added at the first block read (R48). -/
def Tables.rereads (u : Tables) (bytes : List Byte) : List LoaderRead :=
  let commands := match u.movedBase bytes .cabcmd with
    | some b => [LoaderRead.cabcmd b 0, LoaderRead.cabcmd b 1]
    | none => []
  let orders := match u.movedBase bytes .workord with
    | some b => [LoaderRead.workord b]
    | none => []
  commands ++ orders

/-- An apply after a read answered OK (R47, R48). -/
def Tables.keepRead (u : Tables) (a : Apply) (r : LoaderRead) (bytes : List Byte) : Apply :=
  match r with
  | .block i =>
    { a with block := a.block ++ bytes, todo := if i = 0 then a.todo ++ u.rereads bytes else a.todo }
  | .cabcmd _ _ => { a with commands := a.commands ++ bytes }
  | .workord _ => { a with orders := a.orders ++ bytes }

/-- The failing field offset of a read answered FAULT (R49). -/
def LoaderRead.failOffset : LoaderRead → Nat
  | .block i => 0x100 * i.val
  | .cabcmd _ _ => 0x014
  | .workord _ => 0x020

/-! ## The result (R54) -/

/-- The generation of the block as far as it was read; when its read was answered FAULT there is none: FREE VALUE
(notes/assumptions/8.md). -/
def Tables.generationRead (u : Tables) (a : Apply) : Word16 :=
  if a.block.length < 4 then Config.generationUnread u.clock else word16At a.block 2

/-- The result given to the record writer, with its mark (R54 (3)). -/
def Tables.setApplyResult (u : Tables) (r : ApplyResult) (offset : Nat) (gen : Word16) : Tables :=
  (u.setWriter { u.writer with applyResult := r, failOffset := BitVec.ofNat 16 offset, headerGen := gen }).markUrgent
    .header

/-- A rejected apply (R54). -/
def Tables.rejectApply (u : Tables) (a : Apply) (r : ApplyResult) (offset : Nat) : Tables :=
  let gen := u.generationRead a
  (({ u with apply := none }).setApplyResult r offset u.writer.headerGen).journal .configRejected .warning 0 r.code
    (BitVec.ofNat 16 offset ++ gen)

/-! ## Hand-over (R55 to R60) -/

/-- The CABCMD contents after a move (R58 (1)). -/
def Tables.takeSlotSequences (u : Tables) (bytes : List Byte) (c : Cab) : Tables :=
  (u.setCab c
    { u.cab c with
      lastSeq := some (byteAt bytes (16 * c.val)), lastCmd := none, outstanding := false, cmdTimer := none,
      supSeq := some (byteAt bytes (16 * c.val + 8)) }).markUrgent (.cabinet c)

/-- A work order slot carries an entry's order: its check byte holds and its order number is the entry's. -/
def slotCarries (slot : List Byte) (number : Word32) : Bool := checkHolds slot && word32At slot 4 == number

/-- The WORKORD contents after a move (R58 (2)). -/
def Tables.takeMovedOrder (u : Tables) (bytes : List Byte) (n : Slot) : Tables :=
  let o := u.ord n
  let keeps := slotCarries (slice bytes (32 * n.val) 32) o.number
  if (o.state = .offered ∨ o.state = .withdrawn) ∧ keeps = false then u.changeOrder n .reset else u

/-- R58, for the areas whose re-reads were made: cabinets and slots in ascending number. DESIGN CHOICE, unsafe
(notes/assumptions/46.md): R58 orders neither. -/
def Tables.handMoved (u : Tables) (a : Apply) : Tables :=
  let u := if a.commands.isEmpty then u else allCabs.foldl (fun u c => u.takeSlotSequences a.commands c) u
  if a.orders.isEmpty then u else allSlots.foldl (fun u n => u.takeMovedOrder a.orders n) u

/-- One cabinet entry takes effect, by the cabinet's presence before (`was`) and after (R55 (1) to (4)). -/
def Tables.enterCab (u : Tables) (was : CabCfg) (c : Cab) : Tables :=
  let now := u.cabCfg c
  let u :=
    if !was.present && now.present then
      let u := u.setCab c { u.cab c with fresh := false, report := none, load := 0, staleTimer := none }
      u.setMachine c .learning none
    else if was.present && !now.present then
      let u := u.setCab c
        { u.cab c with fresh := false, staleTimer := none, cmdTimer := none, outstanding := false }
      u.setMachine c .absent none
    else u
  u.setCount c

/-- The cabinet entry of a configuration that may be none. -/
def cabCfgOf (b : Option Block) (c : Cab) : CabCfg :=
  match b with
  | some b => b.cabs.at' c
  | none => .absent

/-- Every cabinet entry takes effect, in ascending number. DESIGN CHOICE, unsafe (notes/assumptions/46.md): R55 gives no
order of the cabinets. -/
def Tables.enterCabs (u : Tables) (was : Option Block) : Tables :=
  allCabs.foldl (fun u c => u.enterCab (cabCfgOf was c) c) u

/-- The live test of a group with a present member outside NORMAL is stopped (R137 (3)). -/
def Tables.applyStop (u : Tables) (g : Grp) : Tables :=
  if (u.members g).any fun c => (u.cab c).machine != .normal then u.stopLiveOf g else u

/-- The owner of a string under a configuration that may be none (R108). -/
def ownerUnder (b : Option Block) (s : Str) : Option Cab :=
  allCabs.find? fun c => ((cabCfgOf b c).position s).isSome

/-- The block's capacity of a string. -/
def Block.capacity (b : Block) (s : Str) : Nat := b.capacities.at' s

/-- The rated capacity an owned string takes from a new configuration (R56 (2)). -/
def ratedUnder (was : Option Block) (b : Block) (s : Str) (held : Word16) : Word16 :=
  let new := BitVec.ofNat 16 (b.capacity s)
  match was with
  | none => new
  | some o => if (ownerUnder was s).isNone ∨ o.capacity s ≠ b.capacity s then new else held

/-- One string takes the new configuration: ownership, rated capacity, thresholds, usability, marks (R56). -/
def Tables.enterString (u : Tables) (was : Option Block) (b : Block) (s : Str) : Tables :=
  let old := u.str s
  let owned := (u.owner s).isSome
  let u := if owned then u.setStr s { old with rated := ratedUnder was b s old.rated } else u
  let u := if owned then u.applyThresholds s .apply else u
  let ownerChanged := ownerUnder was s != u.owner s
  ((u.recomputeMark s).markString s old).markIf (.string s) ownerChanged false

def Tables.enterStrings (u : Tables) (was : Option Block) (b : Block) : Tables :=
  allStrings.foldl (fun u s => u.enterString was b s) u

/-- The STATE base has moved (R59). -/
def stateMoved (was : Option Block) (b : Block) : Bool :=
  match was with
  | some o => o.base .state != b.base .state
  | none => false

/-- The reads of start-up recall from step 2 on begin with the header (R60, R173). -/
def Tables.startRecallAt2 (u : Tables) : Tables :=
  { u with mode := .recalling, recalling := some { todo := [.header], got := [], resumed := false } }

/-- A block takes effect (R54, R55, R60, R61). The test stops of R137 (3) come after the re-evaluation of every group, the
groups in ascending number. DESIGN CHOICE, unsafe (notes/assumptions/46.md): R55 and R137 order neither. The strings stand in
ascending number by R120. -/
def Tables.applyBlock (u : Tables) (a : Apply) (b : Block) : Tables :=
  let was := u.active
  let u := { u with apply := none, active := some b, lock := u.lock || b.lock }
  let u := u.setApplyResult .applied 0xFFFF b.generation
  let u := u.journal .configApplied .notice 0 ApplyResult.applied.code (b.generation.zeroExtend 32)
  let u := ((u.handMoved a).enterCabs was).reevalAll
  let u := allGroups.foldl (fun u g => u.applyStop g) u
  let u := u.enterStrings was b
  let u := if stateMoved was b then u.moveState else u
  let u := u.evalAttn
  if was.isNone then u.startRecallAt2 else u

/-- The end of the read phase (R51, R53, R54). -/
def Tables.endReadPhase (u : Tables) (a : Apply) : Tables :=
  match u.judgeBlock a.block with
  | .invalid o => u.rejectApply a .invalid o
  | .busy o => u.rejectApply a .busyState o
  | .applied b => u.applyBlock a b

/-- A loader read answered OK. Without an apply the completion is discarded (R50 (2)). -/
def Tables.loaderRead (u : Tables) (r : LoaderRead) (bytes : List Byte) : Tables :=
  match u.apply with
  | none => u
  | some a =>
    let u := if r = .block 0 then u.copyGeneration bytes else u
    let a := u.keepRead a r bytes
    if a.todo.isEmpty then u.endReadPhase a else { u with apply := some a }

/-- A loader read answered FAULT (R49). -/
def Tables.loaderFault (u : Tables) (r : LoaderRead) : Tables :=
  match u.apply with
  | none => u
  | some a => u.rejectApply a .invalid r.failOffset

end Sys2Proof.Machine
end

