-- ==== Sys2Proof/Machine/Recall.lean ====
section
/-! DEFINITION. Start-up recall (10): its reads, the judgement of each record, and the effect of each step. -/

namespace Sys2Proof.Machine

/-! ## Reads (Table 10.1(1)) -/

def recallAtBlock : List RecallRead := [.block 0, .block 1, .block 2, .block 3]
def recallAtStrings : List RecallRead := (List.finRange 16).map .strings
def recallAtCommands : List RecallRead := [.commands 0, .commands 1]
def recallAtVisits : List RecallRead := [.orders, .orderStates, .spentList, .visits]
def recallAtJournal : List RecallRead := [.journalHeader, .consumedIndex]
def recallAtRing : List RecallRead := (List.finRange 16).map .ring

/-- The address and length of a recall read. -/
def Tables.recallPlace (u : Tables) : RecallRead → Nat × Nat
  | .block i => (0x100 * i.val, 256)
  | .header => (u.base .state, 64)
  | .strings i => (u.base .state + 0x800 + 0x100 * i.val, 256)
  | .commands i => (u.base .cabcmd + 0x100 * i.val, 256)
  | .orders => (u.base .workord, 256)
  | .orderStates => (u.base .state + 0x5C0, 128)
  | .spentList => (u.base .state + 0x640, 64)
  | .visits => (u.base .state + 0x4C0, 256)
  | .journalHeader => (u.base .state + 0x680, 32)
  | .consumedIndex => (u.base .ctrl, 2)
  | .ring i => (u.base .state + 0x1800 + 0x100 * i.val, 256)

/-- Recall begins at step 1 (R173). -/
def Tables.startRecall (u : Tables) : Tables :=
  { u with mode := .recalling, recalling := some { todo := recallAtBlock, got := [], resumed := false } }

/-- The next step's reads; the results of the step before are done with. -/
def Tables.nextReads (u : Tables) (todo : List RecallRead) (resumed : Bool) : Tables :=
  { u with recalling := some { todo, got := [], resumed } }

/-- The reads of a step as it finds them: none for a read answered FAULT. -/
abbrev Got := List (Option (List Byte))

def Got.at (g : Got) (i : Nat) : Option (List Byte) := g.getD i none

/-- Record `n` of records of `size` bytes, read in pieces of 256 bytes. -/
def Got.record (g : Got) (size n : Nat) : Option (List Byte) :=
  (g.at (size * n / 256)).map fun l => slice l (size * n % 256) size

/-! ## Step 1 (R174) -/

/-- The failing offset of the first read answered FAULT. -/
def Got.firstFault (g : Got) : Option Nat :=
  (g.findIdx? Option.isNone).map fun i => 0x100 * i

/-- The configuration found, or the failing field offset. -/
def recallBlock (g : Got) : Except Nat Block :=
  match Got.firstFault g with
  | some o => .error o
  | none =>
    let bytes := (g.map (·.getD [])).flatten
    match validate bytes with
    | some o => .error o
    | none => .ok (parseBlock bytes)

def Tables.setRecallResult (u : Tables) (r : ApplyResult) (offset : Nat) : Tables :=
  u.setWriter { u.writer with applyResult := r, failOffset := BitVec.ofNat 16 offset }

/-- R174 (1). -/
def Tables.recallValid (u : Tables) (b : Block) : Tables :=
  let u := ({ u with active := some b }).setRecallResult .applied 0xFFFF
  let u := u.setWriter { u.writer with headerGen := b.generation }
  ((u.enterCabs none).enterStrings none b).startRecallAt2

/-- The floor clock set by recall, advancing from then on (R174, R175). -/
def Tables.setRecallClock (u : Tables) (v : Word32) : Tables :=
  { u with clock := v, synced := false, advancing := true }

/-- R174 (2). -/
def Tables.recallInvalid (u : Tables) (offset : Nat) : Tables :=
  { (u.setRecallResult .invalid offset).setRecallClock 0 with mode := .running, recalling := none }

def Tables.recallStep1 (u : Tables) (g : Got) : Tables :=
  match recallBlock g with
  | .ok b => u.recallValid b
  | .error o => u.recallInvalid o

/-! ## Step 2 (R175) -/

def headerGood (l : List Byte) : Bool := checkHolds l && decide (slice l 0 3 = [0x4B, 0x32, 0x02])

def Tables.recallStep2 (u : Tables) (g : Got) : Tables :=
  match (Got.at g 0).filter headerGood with
  | some l => (u.setRecallClock (word32At l 4)).nextReads recallAtStrings true
  | none => (u.setRecallClock 0).nextReads recallAtStrings false

/-! ## Step 3 (R176) -/

/-- The codes of a valid string record: its ageing state and test state. -/
def stringRecordCodes (l : List Byte) (s : Str) : Option (AgeState × TestState) :=
  if checkHolds l ∧ u8 l 0 = s.val ∧ u8 l 3 ≤ 2 then
    match AgeState.ofCode (u8 l 1), TestState.ofCode (u8 l 2) with
    | some a, some t => some (a, t)
    | _, _ => none
  else none

/-- The capacity a recalled string takes: the record's in 10-3000, the block's otherwise. -/
def recalledCapacity (record : Word16) (block : Nat) : Word16 :=
  if 10 ≤ record.toNat ∧ record.toNat ≤ 3000 then record else BitVec.ofNat 16 block

/-- A valid record's entry. The thermal remainder is the record's also where the thermal age is FFFFFFFFh, where R115
leaves 0 and R176 takes the record's field: DESIGN CHOICE, unsafe (notes/assumptions/44.md). -/
def restoreString (l : List Byte) (a : AgeState) (t : TestState) (block : Nat) : StringEntry where
  rated := recalledCapacity (word16At l 4) block
  install := word32At l 0x10
  discharged := word32At l 8
  thermal := word32At l 0xC
  remainder := (byteAt l 7).extractLsb' 3 3
  deepCount := byteAt l 6
  episode := hasBit (byteAt l 7) 0
  lastCapacity := if hasBit (byteAt l 7) 1 then some (word16At l 0x18) else none
  lastSeq := if hasBit (byteAt l 7) 2 then some (byteAt l 0x1A) else none
  lastMode := MeasMode.ofRecord (byteAt l 0x1B)
  age := a
  usable := false
  test :=
    { state := t, charge := word32At l 0x14, suspensions := u8 l 3, starter := Starter.ofCode (byteAt l 0x1C),
      result := TestResult.ofCode (byteAt l 0x1D), cause := AbortCause.ofCode (byteAt l 0x1E), awaitFloor := none,
      awaitSup := none }

/-- An invalid record's entry. -/
def Tables.unknownString (u : Tables) (s : Str) : StringEntry :=
  let rated := if (u.owner s).isSome then BitVec.ofNat 16 (u.limit (·.capacity s)) else 0
  { StringEntry.reset with install := u.clock, rated }

/-- One string recalled: its entry, the thresholds or the AGE_STATE of an unknown state, its marks. -/
def Tables.recallString (u : Tables) (g : Got) (s : Str) : Tables :=
  let old := u.str s
  let u :=
    match (Got.record g 32 s.val).bind fun l => (stringRecordCodes l s).map fun k => (l, k) with
    | some (l, a, t) => (u.setStr s (restoreString l a t (u.limit (·.capacity s)))).applyThresholds s .startUp
    | none =>
      (u.setStr s (u.unknownString s)).journal .ageState .notice (byteOf s.val) AgeCause.startUp.code
        (BitVec.ofNat 32 (0xFF * 256 + AgeState.unverified.code.toNat))
  let n := (u.str s).test
  (u.markString s old).markIf (.string s) (old.test.urgentChange n) (decide (old.test.charge ≠ n.charge))

/-- The first active recalled test of a group becomes STOPPING (R176 (1)). -/
def Tables.recallStop (u : Tables) (g : Grp) (s : Str) : Tables :=
  (u.changeTest s { (u.str s).test with state := .stopping, result := .aborted, cause := .reset }).setUnderTest g
    (some s)

/-- Every other active recalled test returns to IDLE (R176 (2)). -/
def Tables.recallEnd (u : Tables) (s : Str) : Tables :=
  let u := u.changeTest s { (u.str s).test with state := .idle, result := .aborted, cause := .reset }
  u.journal .testEnded .warning (byteOf s.val) TestResult.aborted.code (AbortCause.reset.code.zeroExtend 32)

/-- The strings whose test state is other than IDLE and whose owner satisfies `f`. -/
def Tables.activeTests (u : Tables) (f : Option Cab → Bool) : List Str :=
  allStrings.filter fun s => (u.str s).test.state.active && f (u.owner s)

def Tables.recallGroupTests (u : Tables) (g : Grp) : Tables :=
  match u.activeTests fun o => match o with | some c => u.groupOf c == g | none => false with
  | [] => u
  | first :: rest => rest.foldl (fun u s => u.recallEnd s) (u.recallStop g first)

/-- The recalled tests, group by group (R176). DESIGN CHOICE, unsafe: the groups stand in ascending number, and the strings
of one in ascending number (notes/assumptions/46.md); those of strings that no present cabinet lists end last, in string
order (notes/assumptions/42.md). -/
def Tables.recallTests (u : Tables) : Tables :=
  let u := allGroups.foldl (fun u g => u.recallGroupTests g) u
  (u.activeTests Option.isNone).foldl (fun u s => u.recallEnd s) u

/-- A usable mark computed and kept for step 7 (R176). -/
def Tables.keepMark (u : Tables) (s : Str) : Tables :=
  let e := u.str s
  (u.setStr s { e with usable := e.usableNow }).markString s e

/-- Step 3: the strings in ascending number, then the recalled tests, then the usable marks. Where the entries are more than
32, their order says which are held. DESIGN CHOICE, unsafe (notes/assumptions/46.md): R176 gives no order of the strings. -/
def Tables.recallStep3 (u : Tables) (g : Got) (resumed : Bool) : Tables :=
  let u := allStrings.foldl (fun u s => u.recallString g s) u
  (allStrings.foldl (fun u s => u.keepMark s) u.recallTests).nextReads recallAtCommands resumed

/-! ## Step 4 (R177) -/

/-- One cabinet's sequences; both none after a FAULT. -/
def Tables.recallSlot (u : Tables) (g : Got) (c : Cab) : Tables :=
  let e := u.cab c
  let slot := Got.record g 16 c.val
  let lastSeq := slot.map fun l => byteAt l 0
  let supSeq := slot.map fun l => byteAt l 8
  (u.setCab c { e with lastSeq, lastCmd := none, outstanding := false, supSeq, supAwaited := false }).markIf
    (.cabinet c) (decide (e.lastSeq ≠ lastSeq ∨ e.supSeq ≠ supSeq)) false

/-- TEST_STOP issued for a string left STOPPING, and its group test timer started. -/
def Tables.recallIssue (u : Tables) (s : Str) : Tables :=
  if (u.str s).test.state = .stopping then
    let u := u.issueSup s .testStop
    let u := u.changeTest s { (u.str s).test with awaitSup := u.issuedSeq s }
    match u.owner s with
    | some c => u.setGrp (u.groupOf c) { u.grp (u.groupOf c) with testTimer := some (60 * u.limit (·.testMinutes)) }
    | none => u
  else u

/-- Step 4: the cabinets in ascending number, then a TEST_STOP for each STOPPING string in ascending string number. DESIGN
CHOICE, unsafe (notes/assumptions/46.md): R177 gives no order of either. -/
def Tables.recallStep4 (u : Tables) (g : Got) (resumed : Bool) : Tables :=
  let u := allCabs.foldl (fun u c => u.recallSlot g c) u
  (allStrings.foldl (fun u s => u.recallIssue s) u).nextReads recallAtVisits resumed

/-! ## Step 5 (R178) -/

/-- The spent list's places, oldest first. -/
def Tables.recallSpent (u : Tables) (l : Option (List Byte)) : Tables :=
  match l with
  | some l =>
    (List.range 16).foldl
      (fun u i => let n := word32At l (4 * i); if n = 0 then u else u.joinSpent n) u
  | none => u

/-- A work order state record, when it is valid: its state, its bound console byte and its number. -/
structure OrderRec where
  state : OrderState
  bound : Byte
  number : Word32
  deriving DecidableEq, Repr

def parseOrderRec (l : List Byte) : Option OrderRec :=
  if checkHolds l then
    (OrderState.ofCode (u8 l 0)).map fun st => { state := st, bound := byteAt l 1, number := word32At l 4 }
  else none

/-- The record of slot `n`, when its read was answered OK and it is valid. -/
def orderRecAt (states : Option (List Byte)) (n : Slot) : Option OrderRec :=
  states.bind fun l => parseOrderRec (slice l (16 * n.val) 16)

/-- An order that keeps only its number (R178 (2)). -/
def spentOrder (number : Word32) : Order := { Order.reset with state := .spent, number }

/-- The entry of a slot after recall, but for the spent list (R178 (2)). -/
def recalledOrder (slots : Option (List Byte)) (r : Option OrderRec) (n : Slot) : Order :=
  match r with
  | none => .reset
  | some r =>
    match r.state with
    | .empty => .reset
    | .inUse | .spent => spentOrder r.number
    | .offered | .withdrawn =>
      match slots.map fun l => slice l (32 * n.val) 32 with
      | some slot => if slotCarries slot r.number then { (parseTerms slot).offered with state := r.state } else .reset
      | none => .reset

def Tables.recallOrder (u : Tables) (slots states : Option (List Byte)) (n : Slot) : Tables :=
  let r := orderRecAt states n
  let u := u.changeOrder n (recalledOrder slots r n)
  match r with
  | some r => if r.state = .inUse then u.joinSpent r.number else u
  | none => u

/-- The number of the first IN_USE order whose record names a console. -/
def namedOrder (states : Option (List Byte)) (t : Con) : Option Word32 :=
  allSlots.findSome? fun n =>
    match orderRecAt states n with
    | some r => if r.state = .inUse ∧ r.bound = byteOf t.val then some r.number else none
    | none => none

/-- A valid visit record's entry, as recorded. -/
def restoreVisit (l : List Byte) : Option Visit :=
  if checkHolds l then
    (VisitState.ofCode (u8 l 0)).map fun st =>
      { state := st, order := word32At l 4, badge := word32At l 8, scope := word32At l 0xC, perms := byteAt l 2,
        openTime := word32At l 0x10, activity := word32At l 0x14, reason := EndReason.ofCode (byteAt l 1),
        lastReq := if hasBit (byteAt l 0x1B) 0 then some (byteAt l 3) else none,
        lastResult := if hasBit (byteAt l 0x1B) 1 then some ⟨byteAt l 0x18, byteAt l 0x19, byteAt l 0x1A⟩ else none,
        warnTimer := none, endTimer := none, durTimer := none }
  else none

def recalledVisit (l : Option (List Byte)) (t : Con) : Visit :=
  ((l.bind fun l => restoreVisit (slice l (64 * t.val) 64))).getD .reset

/-- A visit ended by recall: its entry, its number spent, VISIT_ENDED (R178 (3)). -/
def Tables.recallEndVisit (u : Tables) (t : Con) (v : Visit) : Tables :=
  ((u.changeVisit t { v with state := .ended, reason := .reset }).joinSpent v.order).journal .visitEnded .warning
    (byteOf t.val) EndReason.reset.code v.order

def Tables.recallVisit (u : Tables) (states visits : Option (List Byte)) (t : Con) : Tables :=
  let v := recalledVisit visits t
  if v.state.isOpen then u.recallEndVisit t v
  else
    match namedOrder states t with
    | some number => u.recallEndVisit t { v with order := number }
    | none => u.changeVisit t v

/-- Step 5: the spent list, the slots in ascending number, the consoles in ascending number (R178 (3)). DESIGN CHOICE, unsafe
(notes/assumptions/46.md): R178 (2) gives no order of the slots. -/
def Tables.recallStep5 (u : Tables) (g : Got) (resumed : Bool) : Tables :=
  let u := u.recallSpent (Got.at g 2)
  let u := allSlots.foldl (fun u n => u.recallOrder (Got.at g 0) (Got.at g 1) n) u
  (allConsoles.foldl (fun u t => u.recallVisit (Got.at g 1) (Got.at g 3) t) u).nextReads recallAtJournal resumed

/-! ## Step 6 (R179) -/

/-- The lost mark of a journal header's byte. For an unlisted code the rules name no value: FREE VALUE
(notes/assumptions/3.md). -/
def lostOfCode (b : Byte) : Bool := if b = 0 then false else if b = 1 then true else Config.unlistedLostMark b

/-- The head of a usable journal header. -/
def recalledHead (l : Option (List Byte)) : Option JHead :=
  match l with
  | some l =>
    if u16 l 4 ≤ 255 ∧ u16 l 6 ≤ ringSize then
      some { nextSeq := word32At l 0, nextPos := byteAt l 4, unconsumed := u16 l 6, lost := lostOfCode (byteAt l 0xA) }
    else none
  | none => none

/-- The head after the CTRL consumed index is judged against it (R179 (1)). -/
def JHead.consumedBy (h : JHead) (l : Option (List Byte)) : JHead :=
  match l.bind fun l => h.distance (u16 l 0) with
  | some d => { h with unconsumed := h.unconsumed - d }
  | none => h

/-- The consumed index names an entry: a value that gives distance 0 consumes nothing (R64 (4)). -/
def JHead.consumes (h : JHead) (l : Option (List Byte)) : Bool := (h.consumedBy l).unconsumed != h.unconsumed

/-- The entry that a ring position's bytes hold. -/
def parseEntry (l : List Byte) : JEntry where
  seq := word32At l 0
  time := word32At l 4
  kind := byteAt l 8
  severity := byteAt l 9
  subject := byteAt l 0xA
  detail := byteAt l 0xB
  value := word32At l 0xC

/-- An entry given up at recall: WARNING, its other fields known to no one and never written (R171, R179). -/
def givenUpEntry (seq : Word32) : JEntry :=
  { seq, time := 0, kind := 0, severity := Severity.warning.code, subject := 0, detail := 0, value := 0 }

/-- The copy of the unconsumed entry `i` places after the oldest. -/
def recalledEntry (h : JHead) (ring : Got) (i : Nat) : CopyEntry :=
  let pos := h.oldest + BitVec.ofNat 8 i
  let seq := h.nextSeq - BitVec.ofNat 32 h.unconsumed + BitVec.ofNat 32 i
  match (Got.record ring 16 pos.toNat).map parseEntry with
  | some e => if e.seq = seq then ⟨pos, e, false⟩ else ⟨pos, givenUpEntry seq, true⟩
  | none => ⟨pos, givenUpEntry seq, true⟩

def recalledCopy (h : JHead) (ring : Got) : List CopyEntry :=
  (List.range h.unconsumed).map (recalledEntry h ring)

/-- The held entries take their sequences and positions in creation order (R172, R179). They keep their places in the
pending list: an entry created meanwhile (LOST) stands behind them. -/
def Tables.numberHeld (u : Tables) : Tables :=
  let w := u.writer
  let u := w.held.foldl (fun u e => u.judgeHeld e) (u.setWriter { w with held := [], pending := [] })
  u.setWriter { u.writer with pending := u.writer.pending ++ w.pending }

/-- The head and copy established; LOST is created first where the mark is set and space allows, the held entries then
take their sequences, and the mark is set after them where entries were dropped (R172, R179). -/
def Tables.establish (u : Tables) (h : JHead) (copy : List CopyEntry) : Tables :=
  let dropped := u.writer.heldDrop
  let u := u.setWriter { u.writer with head := some h, copy, heldDrop := false }
  let u := u.tryLost.numberHeld
  let u := if dropped then u.setLost.tryLost else u
  u.evalAttn

/-- The head when the journal header is not usable (R179 (2)). -/
def lostHead : JHead where
  nextSeq := 0
  nextPos := 0
  unconsumed := 0
  lost := true

/-! ## Steps 7 and 8 (R180) -/

def Tables.recallCab (u : Tables) (c : Cab) : Tables :=
  if u.present c then
    let u := u.setCab c { u.cab c with fresh := false, report := none, load := 0, staleTimer := none }
    (u.setMachine c .learning none).setCount c
  else u

def Tables.recallGroup (u : Tables) (g : Grp) : Tables :=
  if (u.members g).isEmpty then u else u.reevalGroup g

/-- Step 7: the cabinets, their flags, then the groups, each in ascending number. DESIGN CHOICE, unsafe
(notes/assumptions/46.md): R180 orders none of them. -/
def Tables.recallStep7 (u : Tables) : Tables :=
  let u := allCabs.foldl (fun u c => u.recallCab c) u
  let u := allCabs.foldl (fun u c => u.reevalFlag c) u
  allGroups.foldl (fun u g => u.recallGroup g) u

def Tables.recallStep8 (u : Tables) (resumed : Bool) : Tables :=
  let u := u.journal .start .notice 0 (bit resumed) (u.writer.headerGen.zeroExtend 32)
  let u := u.markAll
  let u := u.setWriter { u.writer with flushTimer := some (u.limit (·.flushTime)) }
  { u with mode := .running, recalling := none }

/-- Step 6 with its reads complete, then steps 7 and 8, which read nothing. `g` holds the journal header, the consumed
index, and the ring where the header was usable. -/
def Tables.recallFinish (u : Tables) (g : Got) (resumed : Bool) : Tables :=
  let u :=
    match recalledHead (Got.at g 0) with
    | some h =>
      let h := h.consumedBy (Got.at g 1)
      ({ u with lastConsumed := some h.oldest }).establish h (recalledCopy h (g.drop 2))
    | none => ({ u with lastConsumed := some 0 }).establish lostHead []
  u.recallStep7.recallStep8 resumed

/-- The journal header and the consumed index are read: the ring is read where the header is usable (R179). A consumption
marks the journal header urgent (R163) where R179 (1) judges the index, before the ring read (notes/assumptions/47.md). -/
def Tables.recallJournal (u : Tables) (g : Got) (resumed : Bool) : Tables :=
  match recalledHead (Got.at g 0) with
  | some h =>
    { u.markIf .journalHeader (h.consumes (Got.at g 1)) false with
      recalling := some { todo := recallAtRing, got := g, resumed } }
  | none => u.recallFinish g resumed

/-! ## A completed read -/

/-- What follows the completion of a read: the step it ends, if it ends one. -/
def Tables.recallAfter (u : Tables) (r : RecallRead) (k : Recall) : Tables :=
  match r with
  | .block i => if i = 3 then u.recallStep1 k.got else u
  | .header => u.recallStep2 k.got
  | .strings i => if i = 15 then u.recallStep3 k.got k.resumed else u
  | .commands i => if i = 1 then u.recallStep4 k.got k.resumed else u
  | .orders => u
  | .orderStates => u
  | .spentList => u
  | .visits => u.recallStep5 k.got k.resumed
  | .journalHeader => u
  | .consumedIndex => u.recallJournal k.got k.resumed
  | .ring i => if i = 15 then u.recallFinish k.got k.resumed else u

/-- A recall read completes, with its bytes or with FAULT (R173). -/
def Tables.recallRead (u : Tables) (r : RecallRead) (bytes : Option (List Byte)) : Tables :=
  match u.recalling with
  | none => u
  | some k =>
    let u :=
      match r, bytes with
      | .block 0, some l => u.copyGeneration l
      | _, _ => u
    let k := { k with got := k.got ++ [bytes] }
    ({ u with recalling := some k }).recallAfter r k

end Sys2Proof.Machine
end

