-- ==== Sys2Proof/Machine/MapDecode.lean ====
section
/-! DEFINITION. The decision of a port access at its grant (02): the map decoder, the record interpreter's checks, and
the owning units' checks with their reservations. -/

namespace Sys2Proof.Machine

/-! ## Where an access lies (R24 to R29) -/

/-- The spaces an access may not leave: the config window and the typed areas. -/
inductive Zone where
  | window
  | area (a : Area)
  deriving DecidableEq, Repr

/-- The config window and, while a configuration is active, its areas, with their addresses (R25, R26). -/
def Tables.zones (u : Tables) : List (Zone × Range) :=
  (.window, windowRange) ::
    match u.active with
    | some b => allAreas.map fun a => (.area a, (b.base a, a.size))
    | none => []

def Access.range (a : Access) : Range := (a.addr, a.len)

/-- The access's last byte lies below the end of record memory (R24). -/
def Access.inRange (a : Access) : Bool := decide (a.addr + a.len ≤ Config.memorySize)

def Access.touchesWindow (a : Access) : Bool := a.range.overlaps windowRange

def Access.inWindow (a : Access) : Bool := decide (a.addr + a.len ≤ Config.windowSize)

def Range.inside (r s : Range) : Bool := decide (s.1 ≤ r.1 ∧ r.1 + r.2 ≤ s.1 + s.2)

/-- The first zone an access touches, with its addresses. -/
def Tables.touched (u : Tables) (a : Access) : Option (Zone × Range) := u.zones.find? fun z => a.range.overlaps z.2

/-- The tag of an SVC access as a console (R32 (2)). -/
def Access.console (a : Access) : Option Con := if h : a.tag.toNat < 4 then some ⟨a.tag.toNat, h⟩ else none

/-- The tag of a CAB access as a present cabinet (R32 (3)). -/
def Tables.tagCab (u : Tables) (a : Access) : Option Cab :=
  if h : a.tag.toNat < 32 then
    let c : Cab := ⟨a.tag.toNat, h⟩
    if u.present c then some c else none
  else none

/-- Steps 1 to 6 of Table 2.4(1). -/
def Tables.decodeChecks (u : Tables) (a : Access) : List (Bool × Denial) :=
  [ (a.inRange, (.range, none)),
    (!u.nomap || (a.port == .sup && a.inWindow), (.nomap, none)),
    (!(a.port == .svc && u.key == .locked), (.key, none)),
    (!(a.port == .svc && a.console.isNone), (.denied, none)),
    (!(a.port == .sup && a.kind == .write && a.touchesWindow && u.lock), (.locked, none)),
    ((match u.touched a with | some z => a.range.inside z.2 | none => true), (.shape, none)) ]

/-! ## Plain accesses (R27, R28, R33) -/

/-- An attribute's rights (R27). -/
def Attr.grants : Attr → Kind → Bool
  | .both, _ => true
  | .read, .read => true
  | .write, .write => true
  | _, _ => false

def Region.attr (r : Region) : Port → Attr
  | .sup => r.sup
  | .cab => r.cab
  | .svc => r.svc

/-- The enabled region an address lies in. -/
def Tables.regionAt (u : Tables) (addr : Nat) : Option Region :=
  match u.active with
  | some b => b.regions.toList.find? fun r =>
      r.size != 0 && decide (r.base ≤ addr ∧ addr < r.base + regionSize r.size)
  | none => none

/-- Whether a byte of a plain access is permitted (R33). -/
def Tables.bytePermitted (u : Tables) (p : Port) (k : Kind) (addr : Nat) : Bool :=
  match u.regionAt addr with
  | some r => (r.attr p).grants k
  | none => p == .sup

def Tables.permittedBytes (u : Tables) (a : Access) : List Bool :=
  (List.range a.len).map fun i => u.bytePermitted a.port a.kind (a.addr + i)

/-- The runs of permitted bytes of a write at `addr`, as memory writes in ascending order; `run` is the run under way,
reversed (R33). -/
def runsFrom (addr : Nat) (run : List Byte) : List (Bool × Byte) → List MemOp
  | [] => if run.isEmpty then [] else [.write (addr - run.length) run.reverse]
  | (true, b) :: rest => runsFrom (addr + 1) (b :: run) rest
  | (false, _) :: rest =>
    (if run.isEmpty then [] else [.write (addr - run.length) run.reverse]) ++ runsFrom (addr + 1) [] rest

/-- A permitted access: its operations, the permission of each byte, and its take. -/
structure Passed where
  ops : List MemOp
  permitted : List Bool
  take : Take
  deriving DecidableEq, Repr

/-- The outcome of a decision. -/
abbrev Decided := Except Denial Passed

def wholeRead (a : Access) (permitted : List Bool) : Passed := ⟨[.read a.addr a.len], permitted, .nothing⟩

def wholeWrite (a : Access) (take : Take) : Passed := ⟨[.write a.addr a.data], List.replicate a.len true, take⟩

/-- The byte-wise decision (R33, R34). -/
def Tables.decidePlain (u : Tables) (a : Access) : Decided :=
  let p := u.permittedBytes a
  if !p.any id then .error (.denied, none)
  else
    match a.kind with
    | .read => .ok (wholeRead a p)
    | .write => .ok ⟨runsFrom a.addr [] (p.zip a.data), p, .nothing⟩

/-! ## Rights in typed areas (Table 2.8(1)) -/

def Zone.mayRead : Zone → Port → Bool
  | .window, .sup | .window, .svc => true
  | .window, .cab => false
  | .area .ctrl, .sup => true
  | .area .ctrl, .cab | .area .ctrl, .svc => false
  | .area .visit, .cab | .area .workord, .cab => false
  | .area _, _ => true

def Zone.mayWrite : Zone → Port → Bool
  | .window, .sup => true
  | .area .cabstat, .cab => true
  | .area .cabcmd, .sup | .area .cabcmd, .svc => true
  | .area .measure, .cab => true
  | .area .visit, .svc => true
  | .area .workord, .sup => true
  | .area .ctrl, .sup => true
  | _, _ => false

/-! ## Shape (R38) and slot rights (R37) -/

inductive CtrlField where
  | consumed | clock | flush | faultClear
  deriving DecidableEq, Repr

/-- The unit a typed write covers exactly. -/
inductive Target where
  | window
  | status (c : Cab)
  | floorHalf (c : Cab)
  | supHalf (c : Cab)
  | measure (s : Str)
  | visit (t : Con)
  | order (n : Slot)
  | ctrl (f : CtrlField)
  deriving DecidableEq, Repr

/-- The index of a record of 32 bytes that an offset and a length cover exactly. -/
def recordAt (n off len : Nat) : Option (Fin n) :=
  if h : off % 32 = 0 ∧ len = 32 ∧ off / 32 < n then some ⟨off / 32, h.2.2⟩ else none

/-- The command slot and its half that an offset and a length cover exactly. -/
def halfAt (off len : Nat) : Option Target :=
  if h : len = 8 ∧ off / 16 < 32 then
    if off % 16 = 0 then some (.floorHalf ⟨off / 16, h.2⟩)
    else if off % 16 = 8 then some (.supHalf ⟨off / 16, h.2⟩)
    else none
  else none

/-- The CTRL field that an offset and a length cover exactly (Table 2.12(5)). -/
def ctrlAt (off len : Nat) : Option Target :=
  if off = 0 ∧ len = 2 then some (.ctrl .consumed)
  else if off = 4 ∧ len = 4 then some (.ctrl .clock)
  else if off = 8 ∧ len = 1 then some (.ctrl .flush)
  else if off = 9 ∧ len = 1 then some (.ctrl .faultClear)
  else none

/-- The unit of an area that a write covers exactly (R38). -/
def targetAt (z : Zone) (off len : Nat) : Option Target :=
  match z with
  | .window => some .window
  | .area .cabstat => (recordAt 32 off len).map .status
  | .area .cabcmd => halfAt off len
  | .area .measure => (recordAt 128 off len).map .measure
  | .area .visit => (recordAt 4 off len).map .visit
  | .area .workord => (recordAt 8 off len).map .order
  | .area .ctrl => ctrlAt off len
  | .area .state => none

/-- A console's open visit has a cabinet in its scope. -/
def Tables.inOwnScope (u : Tables) (t : Option Con) (c : Cab) : Bool :=
  match t with
  | some t => (u.vis t).state.isOpen && hasBit (u.vis t).scope c.val
  | none => false

/-- R37: the check of the slot right. -/
def Tables.slotCheck (u : Tables) (a : Access) : Target → Bool × Denial
  | .status c => (u.tagCab a == some c, (.denied, none))
  | .measure s =>
    ((match u.tagCab a with | some c => (u.stringsOf c).contains s | none => false), (.denied, none))
  | .visit t => (a.console == some t, (.denied, none))
  | .supHalf _ => (false, (.denied, none))
  | .floorHalf c =>
    (a.port != .svc || u.inOwnScope a.console c, (.scope, some .outOfScope))
  | .window | .order _ | .ctrl _ => (true, (.denied, none))

/-- The records that carry a check byte (R39). -/
def Target.checked : Target → Bool
  | .window | .ctrl _ => false
  | _ => true

/-! ## Owning units (R36 (5)) -/

/-- The tables and the take after the owning unit's check, or the tables and the refusal. -/
abbrev Judged := Tables × Except Denial Take

def Tables.refuse (u : Tables) (d : Denial) : Judged := (u, .error d)

/-- A check list, then a permitted take that reserves nothing. -/
def Tables.judgeList (u : Tables) (l : List (Bool × Denial)) (take : Take) : Judged :=
  match firstDenial l with
  | some d => u.refuse d
  | none => (u, .ok take)

/-- R68. -/
def Tables.judgeStatus (u : Tables) (c : Cab) (d : List Byte) : Judged :=
  if u8 d 0 ≠ c.val then u.refuse (.shape, none)
  else
    match parseStatus d with
    | some r => (u, .ok (.status c r))
    | none => u.refuse (.shape, none)

/-- A floor command refused at step 4 of R85: an INTERLOCK refusal is recorded (R93). -/
def Tables.refuseFloor (u : Tables) (c : Cab) (seq : Byte) (transfer : Bool) (d : Denial) : Judged :=
  match d with
  | (.interlock, some cause) => (u.floorRefused c seq transfer cause, .error d)
  | _ => u.refuse d

/-- Step 4 of R85, TO_BYPASS. -/
def Tables.judgeToBypass (u : Tables) (c : Cab) (seq : Byte) : Judged :=
  match firstDenial (u.toBypassChecks c) with
  | some d => u.refuseFloor c seq true d
  | none => (u.reserveToBypass c, .ok (.floor c seq .toBypass .toBypass false))

/-- Step 4 of R85, TO_ONLINE. -/
def Tables.judgeToOnline (u : Tables) (c : Cab) (seq : Byte) : Judged :=
  match firstDenial (u.toOnlineChecks c) with
  | some d => u.refuseFloor c seq true d
  | none =>
    let e := u.cab c
    (u.reserveToOnline c, .ok (.floor c seq .toOnline (.toOnline e.machine e.holder) false))

/-- Step 4 of R85, TEST_START. -/
def Tables.judgeStart (u : Tables) (c : Cab) (seq arg : Byte) (con : Option Con) : Judged :=
  match u.judgeTestStart c arg con with
  | .error d => u.refuseFloor c seq false d
  | .ok (s, p) =>
    (u.reserveTestStart c s con, .ok (.floor c seq (.testStart p) (.testStart s (u.str s).test) false))

/-- Step 4 of R85, TEST_STOP. -/
def Tables.judgeStop (u : Tables) (c : Cab) (seq arg : Byte) : Judged :=
  match u.judgeTestStop c arg with
  | .error d => u.refuseFloor c seq false d
  | .ok (s, p) =>
    let (u, undo) := u.reserveTestStop c s seq
    (u, .ok (.floor c seq (.testStop p) undo false))

/-- Steps 2 and 3 of R85. -/
def Tables.floorChecks (u : Tables) (c : Cab) (seq : Byte) : List (Bool × Denial) :=
  [ (seqPasses (u.cab c).lastSeq seq, (.shape, none)), (!(u.cab c).outstanding, (.busy, none)) ]

/-- R85. -/
def Tables.judgeFloor (u : Tables) (c : Cab) (d : List Byte) (con : Option Con) : Judged :=
  let seq := byteAt d 0
  let arg := byteAt d 2
  if ¬ (1 ≤ u8 d 1 ∧ u8 d 1 ≤ 4) then u.refuse (.shape, none)
  else
    match firstDenial (u.floorChecks c seq) with
    | some e => u.refuse e
    | none =>
      match u8 d 1 with
      | 1 => u.judgeToBypass c seq
      | 2 => u.judgeToOnline c seq
      | 3 => u.judgeStart c seq arg con
      | _ => u.judgeStop c seq arg

/-- R109, R110. -/
def Tables.judgeMeasurement (u : Tables) (s : Str) (d : List Byte) : Judged :=
  if u8 d 0 ≠ s.val then u.refuse (.shape, none)
  else
    match parseMeasurement d with
    | none => u.refuse (.shape, none)
    | some r =>
      u.judgeList (u.measurementChecks s r) (if u.duplicate s r.seq then .nothing else .measure s r)

/-- R149 (3), (4), for a request whose action and sequence have passed. -/
def Tables.judgeAction (u : Tables) (t : Con) (d : List Byte) : Judged :=
  let seq := byteAt d 0
  let number := word32At d 4
  let badge := word32At d 8
  let capacity := word16At d 0xC
  match u8 d 1 with
  | 1 =>
    if number = 0 ∨ badge = 0 then u.refuse (.shape, none)
    else
      match u.judgeOpen t number badge with
      | .error e => u.refuse e
      | .ok n => (u.reserveOpen t n badge, .ok (.visitOpen t seq n (u.vis t)))
  | 2 => u.judgeList (u.closeChecks t) (.visitClose t seq)
  | k =>
    if h : u8 d 2 < 128 then
      let s : Str := ⟨u8 d 2, h⟩
      if k = 3 then u.judgeList (u.replaceChecks t s capacity) (.replace t seq s capacity)
      else u.judgeList (u.retireChecks t s) (.retire t seq s)
    else u.refuse (.shape, none)

/-- R149. A refusal sets the console's last result. -/
def Tables.judgeVisit (u : Tables) (t : Con) (d : List Byte) : Judged :=
  let judged : Judged :=
    if ¬ (1 ≤ u8 d 1 ∧ u8 d 1 ≤ 4) then u.refuse (.shape, none)
    else if !seqPasses (u.vis t).lastReq (byteAt d 0) then u.refuse (.shape, none)
    else u.judgeAction t d
  match judged with
  | (u, .error e) => (u.setResult t (Reply.refused e.1 e.2).result, .error e)
  | (u, .ok k) => (u, .ok k)

/-- R144 to R146. -/
def Tables.judgeOrder (u : Tables) (n : Slot) (d : List Byte) : Judged :=
  let terms := parseTerms d
  match firstDenial (orderFieldChecks (byteAt d 0) terms) with
  | some e => u.refuse e
  | none =>
    match u8 d 0 with
    | 1 => u.judgeList (u.offerChecks n terms) (.offer n terms)
    | 2 => u.judgeList (u.withdrawChecks n terms) (.withdraw n)
    | _ => u.judgeList (u.clearChecks n) (.clear n)

/-- The distance of a consumed index; none where R64 refuses it. -/
def Tables.indexDistance (u : Tables) (v : Nat) : Option Nat := u.writer.head.bind fun h => h.distance v

/-- R63 to R66. -/
def Tables.judgeCtrl (u : Tables) (f : CtrlField) (d : List Byte) : Judged :=
  match f with
  | .consumed =>
    match u.indexDistance (u16 d 0) with
    | some n => (u, .ok (.consumed (byteAt d 0) n))
    | none => u.refuse (.shape, none)
  | .clock => (u, .ok (.clockSet (word32At d 0)))
  | .flush => if byteAt d 0 = 1 then (u, .ok .flush) else u.refuse (.shape, none)
  | .faultClear => if byteAt d 0 = 1 then (u, .ok .faultClear) else u.refuse (.shape, none)

/-- The owning unit's check of a typed write (R36 (5), Table 2.9(1)). -/
def Tables.judgeTarget (u : Tables) (a : Access) : Target → Judged
  | .window => (u, .ok .config)
  | .status c => u.judgeStatus c a.data
  | .floorHalf c => u.judgeFloor c a.data (if a.port = .svc then a.console else none)
  | .supHalf _ => u.refuse (.denied, none)
  | .measure s => u.judgeMeasurement s a.data
  | .visit t => u.judgeVisit t a.data
  | .order n => u.judgeOrder n a.data
  | .ctrl f => u.judgeCtrl f a.data

/-! ## The decision (R29, R35, R36) -/

/-- R36, for a write lying wholly in a zone. -/
def Tables.decideTypedWrite (u : Tables) (a : Access) (z : Zone) (base : Nat) : Tables × Decided :=
  if !z.mayWrite a.port then (u, .error (.denied, none))
  else
    match targetAt z (a.addr - base) a.len with
    | none => (u, .error (.shape, none))
    | some target =>
      match firstDenial [u.slotCheck a target, (!target.checked || checkHolds a.data, (.shape, none))] with
      | some d => (u, .error d)
      | none =>
        match u.judgeTarget a target with
        | (u, .error d) => (u, .error d)
        | (u, .ok take) => (u, .ok (wholeWrite a take))

/-- The decision of an access at the beginning of its grant (R29). -/
def Tables.decideAccess (u : Tables) (a : Access) : Tables × Decided :=
  match firstDenial (u.decodeChecks a) with
  | some d => (u, .error d)
  | none =>
    match u.touched a with
    | none => (u, u.decidePlain a)
    | some (z, r) =>
      match a.kind with
      | .read =>
        (u, if z.mayRead a.port then .ok (wholeRead a (List.replicate a.len true)) else .error (.denied, none))
      | .write => u.decideTypedWrite a z r.1

end Sys2Proof.Machine
end

