-- ==== Sys2Proof/Machine/Grants.lean ====
section
/-! DEFINITION. Frames, the arbiter and the grants (01): acceptance, eligibility, the rotation, port grants row by row,
and the internal grant with the writer's next operation (R164). -/

namespace Sys2Proof.Machine

def State.setTables (s : State) (u : Tables) : State := { s with tables := u }

/-! ## Frames (R4 to R9) -/

/-- A link is under flow hold (R7). -/
def State.linkHeld (s : State) (p : Port) : Bool :=
  s.tables.mode.holdsLinks || decide (queueLimit ≤ (s.queues.of p).length)

/-- An accepted access at the tail of its queue, with the activity notice of an SVC frame (R6, R9). -/
def State.accept (s : State) (a : Access) : State :=
  let s := { s with queues := s.queues.put a.port (s.queues.of a.port ++ [a]) }
  if a.port = .svc then s.setTables (s.tables.activityNotice a.tag) else s

/-- FRAME_RECEIVED. A frame on a held link stays with its sender, and a frame that fails a check leaves no trace
(R4 to R7). -/
def execFrameReceived (p : Port) (frame : List Byte) (s : State) : Host.Outcome State Fault Refusal :=
  if s.linkHeld p then .next s
  else
    match parseFrame p frame with
    | some a => .next (s.accept a)
    | none => .next s

/-! ## The record writer's next operation (R164, R182) -/

/-- The write for a place of the urgent set: a marked supervisor half comes before its cabinet's record. -/
def Writer.placeJob (w : Writer) (p : Place) : WriterJob :=
  match p.what with
  | .cabinet c => if w.half.at' c then .half c else .record p.what
  | r => .record r

/-- R164 (3): whichever of the first place and the first pending entry joined earlier. -/
def Writer.firstJob (w : Writer) : Option WriterJob :=
  match w.urgent, w.pending with
  | p :: _, e :: _ => some (if p.stamp < e.stamp then w.placeJob p else .pending e)
  | p :: _, [] => some (w.placeJob p)
  | [], e :: _ => some (.pending e)
  | [], [] => none

/-- The writer's next operation, and whether it is a retry (R164); in the drain the header comes when nothing else
remains (R182 (2)). A header write that stands as the retry is presented first there too: DESIGN CHOICE, unsafe
(notes/assumptions/41.md). -/
def Tables.writerNext (u : Tables) : Option (WriterJob × Bool) :=
  let w := u.writer
  if u.nomap then none
  else
    match w.retry, w.span with
    | some j, _ => some (j, true)
    | none, e :: _ => some (.span e, false)
    | none, [] =>
      match w.firstJob with
      | some j => some (j, false)
      | none => if u.mode = .draining then some (.haltedHeader, false) else none

/-- What leaves the writer's collections at a write's grant (R163, R164, R182). DESIGN CHOICE, unsafe: a half mark stays
set where a record's retry takes its place away (notes/assumptions/38.md), and a span entry's retry takes the entry out
of a span filled again since (notes/assumptions/40.md). -/
def Writer.granted (w : Writer) : WriterJob → Writer
  | .record r => w.unplace r
  | .half c => { w with half := w.half.put c false }
  | .pending _ => w
  | .span e => { w with span := w.span.filter fun x => x.entry.seq != e.entry.seq }
  | .haltedHeader => { w with status := .halted }

/-! ## The arbiter (R16, R17, R20, R21) -/

/-- A SUP write that touches the config window is held while an apply runs (R20). -/
def Tables.holdsHead (u : Tables) (a : Access) : Bool :=
  a.port == .sup && a.kind == .write && a.touchesWindow && u.apply.isSome

/-- The head a port may have granted. -/
def State.waiting (s : State) (p : Port) : Option Access :=
  if s.tables.mode.grantsPorts then
    (s.queues.of p).head?.filter fun a => !s.tables.holdsHead a
  else none

/-- The internal requester's operation: recall's while it runs, otherwise the loader's, otherwise the writer's (R19). -/
inductive InternalOp where
  | recallRead (r : RecallRead)
  | loader (r : LoaderRead)
  | writer (j : WriterJob) (isRetry : Bool)
  deriving DecidableEq, Repr

def Tables.recallNext (u : Tables) : Option InternalOp :=
  (u.recalling.bind fun k => k.todo.head?).map .recallRead

def Tables.loaderNext (u : Tables) : Option InternalOp :=
  (u.apply.bind fun a => a.todo.head?).map .loader

/-- R19. An apply started by a take that PFW found in flight in the NOMAP state presents no read in HALTED: DESIGN CHOICE,
unsafe (notes/assumptions/34.md). -/
def Tables.internalNext (u : Tables) : Option InternalOp :=
  match u.mode with
  | .recalling => u.recallNext
  | .running | .draining =>
    match u.loaderNext with
    | some o => some o
    | none => u.writerNext.map fun j => .writer j.1 j.2
  | .inReset | .halting | .halted => none

/-- A grant the arbiter may make. -/
inductive Choice where
  | port (a : Access)
  | internal (o : InternalOp)
  deriving DecidableEq, Repr

def State.offer (s : State) : Requester → Option Choice
  | .sup => (s.waiting .sup).map .port
  | .cab => (s.waiting .cab).map .port
  | .svc => (s.waiting .svc).map .port
  | .internal => s.tables.internalNext.map .internal

/-- The cyclic order of a search, beginning after the rotation position (R17). -/
def Requester.search : Requester → List Requester
  | .sup => [.cab, .svc, .internal, .sup]
  | .cab => [.svc, .internal, .sup, .cab]
  | .svc => [.internal, .sup, .cab, .svc]
  | .internal => [.sup, .cab, .svc, .internal]

/-- The arbiter's choice; none while a grant is in progress or no requester is eligible (R17, R18). -/
def State.choice (s : State) : Option Choice :=
  if s.grant.isSome then none else s.rotation.search.findSome? s.offer

/-! ## Port grants -/

def Requester.ofPort : Port → Requester
  | .sup => .sup
  | .cab => .cab
  | .svc => .svc

/-- The head leaves its queue and its reply leaves the link (R12). -/
def State.answer (s : State) (a : Access) (r : Reply) : State :=
  { s with
    queues := s.queues.put a.port ((s.queues.of a.port).drop 1)
    sent := s.sent ++ [(a.port, r.frame a.txn)] }

/-- A port access granted: decided, then refused and answered, or in flight (R12 (1), R18). -/
def State.grantPort (s : State) (a : Access) : State :=
  let s := { s with rotation := .ofPort a.port }
  match s.tables.decideAccess a with
  | (u, .error d) => (s.setTables u).answer a (.refused d.1 d.2)
  | (u, .ok p) =>
    { s.setTables u with grant := some (.port { acc := a, ops := p.ops, permitted := p.permitted, take := p.take }) }

/-! ### The rows of the port grants

A grant of the arbiter is one event; spec/opcode_table.json gives it a row by what the granted access is. A row's
command is the grant when the arbiter chooses a port head of that row (notes/assumptions/10.md). -/

inductive Row where
  | portRead | plainWrite | configWindowWrite | cabinetStatus | toBypass | toOnline | testStart | testStop | measurement
  | visitOpen | visitClose | visitReplace | visitRetire | orderOffer | orderWithdraw | orderClear
  | consumedIndex | clockSet | flushRequest | faultClear
  deriving DecidableEq, Repr

/-- The row of a floor half by its command byte. -/
def floorRow (code : Nat) : Row :=
  match code with
  | 1 => .toBypass
  | 2 => .toOnline
  | 3 => .testStart
  | 4 => .testStop
  | _ => .plainWrite

def visitRow (code : Nat) : Row :=
  match code with
  | 1 => .visitOpen
  | 2 => .visitClose
  | 3 => .visitReplace
  | 4 => .visitRetire
  | _ => .plainWrite

def orderRow (code : Nat) : Row :=
  match code with
  | 1 => .orderOffer
  | 2 => .orderWithdraw
  | 3 => .orderClear
  | _ => .plainWrite

def ctrlRow (off : Nat) : Row :=
  match off with
  | 0 => .consumedIndex
  | 4 => .clockSet
  | 8 => .flushRequest
  | 9 => .faultClear
  | _ => .plainWrite

/-- The row of a write that touches a zone at an offset from its base. -/
def writeRow (z : Zone) (p : Port) (off : Nat) (d : List Byte) : Row :=
  match z, p with
  | .area .cabstat, .cab => .cabinetStatus
  | .area .cabcmd, .sup | .area .cabcmd, .svc => if off % 16 < 8 then floorRow (u8 d 1) else .plainWrite
  | .area .measure, .cab => .measurement
  | .area .visit, .svc => visitRow (u8 d 1)
  | .area .workord, .sup => orderRow (u8 d 0)
  | .area .ctrl, .sup => ctrlRow off
  | _, _ => .plainWrite

/-- The rows a write may be counted under where no map places it: out of range, or in the NOMAP state. -/
def portWriteRows : Port → List Row
  | .sup =>
    [.plainWrite, .toBypass, .toOnline, .testStart, .testStop, .orderOffer, .orderWithdraw, .orderClear,
      .consumedIndex, .clockSet, .flushRequest, .faultClear]
  | .cab => [.plainWrite, .cabinetStatus, .measurement]
  | .svc =>
    [.plainWrite, .toBypass, .toOnline, .testStart, .testStop, .visitOpen, .visitClose, .visitReplace, .visitRetire]

/-- The rows an access may be granted under. -/
def Tables.rowsOf (u : Tables) (a : Access) : List Row :=
  match a.kind with
  | .read => [.portRead]
  | .write =>
    if a.port = .sup ∧ a.inWindow then [.configWindowWrite]
    else if !a.inRange || u.nomap then portWriteRows a.port
    else
      match u.touched a with
      | some (z, r) => [writeRow z a.port (a.addr - r.1) a.data]
      | none => [.plainWrite]

/-- The grant of a row: the arbiter's choice is a port head of that row. Otherwise the event does not happen. -/
def State.grantRow (s : State) (r : Row) : Host.Outcome State Fault Refusal :=
  match s.choice with
  | some (.port a) => if (s.tables.rowsOf a).contains r then .next (s.grantPort a) else .next s
  | _ => .next s

/-- PORT_READ (R33, R35). -/
def execPortRead (s : State) : Host.Outcome State Fault Refusal := s.grantRow .portRead
/-- PLAIN_WRITE (R33), and any write with no row of its own (R36). -/
def execPlainWrite (s : State) : Host.Outcome State Fault Refusal := s.grantRow .plainWrite
/-- CONFIG_WINDOW_WRITE (R25, R41). -/
def execConfigWindowWrite (s : State) : Host.Outcome State Fault Refusal := s.grantRow .configWindowWrite
/-- CABINET_STATUS (R68). -/
def execCabinetStatus (s : State) : Host.Outcome State Fault Refusal := s.grantRow .cabinetStatus
/-- TO_BYPASS (R85, R90, R91). -/
def execToBypass (s : State) : Host.Outcome State Fault Refusal := s.grantRow .toBypass
/-- TO_ONLINE (R85, R94, R95). -/
def execToOnline (s : State) : Host.Outcome State Fault Refusal := s.grantRow .toOnline
/-- TEST_START (R85, R128, R129). -/
def execTestStart (s : State) : Host.Outcome State Fault Refusal := s.grantRow .testStart
/-- TEST_STOP (R85, R130). -/
def execTestStop (s : State) : Host.Outcome State Fault Refusal := s.grantRow .testStop
/-- MEASUREMENT (R109, R110). -/
def execMeasurement (s : State) : Host.Outcome State Fault Refusal := s.grantRow .measurement
/-- OPEN (R149 to R151). -/
def execVisitOpen (s : State) : Host.Outcome State Fault Refusal := s.grantRow .visitOpen
/-- CLOSE (R149, R155). -/
def execVisitClose (s : State) : Host.Outcome State Fault Refusal := s.grantRow .visitClose
/-- REPLACE (R149, R158). -/
def execVisitReplace (s : State) : Host.Outcome State Fault Refusal := s.grantRow .visitReplace
/-- RETIRE (R149, R158). -/
def execVisitRetire (s : State) : Host.Outcome State Fault Refusal := s.grantRow .visitRetire
/-- OFFER (R144, R145). -/
def execOrderOffer (s : State) : Host.Outcome State Fault Refusal := s.grantRow .orderOffer
/-- WITHDRAW (R144, R146). -/
def execOrderWithdraw (s : State) : Host.Outcome State Fault Refusal := s.grantRow .orderWithdraw
/-- CLEAR (R144, R146). -/
def execOrderClear (s : State) : Host.Outcome State Fault Refusal := s.grantRow .orderClear
/-- CONSUMED_JOURNAL_INDEX (R64). -/
def execConsumedJournalIndex (s : State) : Host.Outcome State Fault Refusal := s.grantRow .consumedIndex
/-- CLOCK_SET (R63). -/
def execClockSet (s : State) : Host.Outcome State Fault Refusal := s.grantRow .clockSet
/-- FLUSH_REQUEST (R65). -/
def execFlushRequest (s : State) : Host.Outcome State Fault Refusal := s.grantRow .flushRequest
/-- FAULT_CLEAR (R66). -/
def execFaultClear (s : State) : Host.Outcome State Fault Refusal := s.grantRow .faultClear

/-! ## The internal grant (R19) -/

/-- A recall read leaves the list (R173). -/
def Tables.popRecall (u : Tables) : Tables :=
  { u with recalling := u.recalling.map fun k => { k with todo := k.todo.drop 1 } }

/-- A loader read leaves the list (R47). -/
def Tables.popLoader (u : Tables) : Tables :=
  { u with apply := u.apply.map fun a => { a with todo := a.todo.drop 1 } }

/-- The operation issued: one read or one write. -/
def State.issue (s : State) (o : InternalOp) : State :=
  let u := s.tables
  match o with
  | .recallRead r =>
    let place := u.recallPlace r
    { s.setTables u.popRecall with grant := some (.recallRead r place.1 place.2) }
  | .loader r => { s.setTables u.popLoader with grant := some (.loader r r.addr readSize) }
  | .writer j isRetry =>
    let u := u.setWriter (u.writer.granted j)
    let w := u.jobWrite j
    { s.setTables u with grant := some (.writer j isRetry w.1 w.2) }

/-- INTERNAL_GRANT (R19): the arbiter's choice is the internal requester. -/
def execInternalGrant (s : State) : Host.Outcome State Fault Refusal :=
  match s.choice with
  | some (.internal o) => .next ({ s with rotation := .internal }.issue o)
  | _ => .next s

end Sys2Proof.Machine
end

