-- ==== Sys2Proof/Machine/Complete.lean ====
section
/-! DEFINITION. Completions: what record memory's answer does to a port access (R12, R15, R40), to a loader read, a
recall read and a write of the record writer (R166, R182). -/

namespace Sys2Proof.Machine

/-! ## CTRL takes (R63 to R66) -/

/-- R64. -/
def Tables.takeConsumed (u : Tables) (v : Byte) (d : Nat) : Tables :=
  let u := { u with lastConsumed := some v }
  (((u.setWriter (u.writer.consume d)).markUrgent .journalHeader).evalAttn).tryLost

/-- R63. -/
def Tables.takeClockSet (u : Tables) (v : Word32) : Tables :=
  let mark := bit u.synced
  (({ u with clock := v, synced := true }).markUrgent .header).journal .clockSet .notice 0 mark v

/-- R66. -/
def Tables.takeFaultClear (u : Tables) : Tables :=
  if u.writer.latch then ((u.setWriter { u.writer with latch := false }).markUrgent .header).evalAttn else u

/-! ## Config-window takes (R41) -/

/-- The byte a config-window write leaves at an address, where it covers it. -/
def Access.written (a : Access) (addr : Nat) : Option Byte :=
  if a.addr ≤ addr ∧ addr < a.addr + a.len then a.data[addr - a.addr]? else none

/-- The generation copy after a config-window write answered OK. -/
def Tables.copyWritten (u : Tables) (a : Access) : Tables :=
  { u with
    genLow := match a.written 2 with | some b => some b | none => u.genLow
    genHigh := match a.written 3 with | some b => some b | none => u.genHigh }

/-- The generation copy after a config-window write answered FAULT. -/
def Tables.copySpoiled (u : Tables) (a : Access) : Tables :=
  { u with
    genLow := if (a.written 2).isSome then none else u.genLow
    genHigh := if (a.written 3).isSome then none else u.genHigh }

/-- A config-window write starts an apply: it covers both bytes of the apply field, and they equal a copy that is known
whole (R41). -/
def Tables.startsApply (u : Tables) (a : Access) : Bool :=
  match a.written 4, a.written 5, u.genLow, u.genHigh with
  | some l, some h, some gl, some gh => l == gl && h == gh
  | _, _, _, _ => false

def Tables.takeConfig (u : Tables) (a : Access) : Tables :=
  let u := u.copyWritten a
  if u.startsApply a then u.startApply else u

/-! ## Takes and undos (R15, R40) -/

/-- The take of a port access answered OK (R40). -/
def Tables.takeAccess (u : Tables) (a : Access) : Take → Tables
  | .nothing => u
  | .config => u.takeConfig a
  | .status c r => u.takeStatus c r
  | .floor c seq cmd _ expired => u.takeFloor c seq cmd expired
  | .measure s r => u.takeMeasurement s r
  | .visitOpen t seq _ _ => u.takeOpen t seq
  | .visitClose t seq => u.takeClose t seq
  | .replace t seq s capacity => (u.requestTaken t seq).takeReplace s capacity
  | .retire t seq s => (u.requestTaken t seq).takeRetire s
  | .offer n terms => u.takeOffer n terms
  | .withdraw n => u.takeWithdraw n
  | .clear n => u.takeClear n
  | .consumed v d => u.takeConsumed v d
  | .clockSet v => u.takeClockSet v
  | .flush => u.flushNow
  | .faultClear => u.takeFaultClear

def memfaultReply : Reply := .refused .memfault none

/-- What a FAULT undoes (R15, R96, R149, R151). -/
def Tables.faultAccess (u : Tables) (a : Access) : Take → Tables
  | .config => u.copySpoiled a
  | .floor c seq _ undo _ => u.undoFloor c seq undo
  | .visitOpen t _ n saved => (u.undoOpen t n saved).setResult t memfaultReply.result
  | .visitClose t _ => u.setResult t memfaultReply.result
  | .replace t _ _ _ => u.setResult t memfaultReply.result
  | .retire t _ _ => u.setResult t memfaultReply.result
  | _ => u

/-! ## Operations on record memory (R14, R15) -/

/-- One operation answered OK: the bytes read, none for a write. -/
def Memory.perform (m : Memory) : MemOp → List Byte × Memory
  | .read a n => m.takeBytes a n
  | .write a bs => ([], m.putBytes a bs)

/-- One operation answered FAULT. -/
def Memory.faulted (m : Memory) : MemOp → Memory
  | .read _ _ => m
  | .write a bs => m.spoil a bs.length

/-- Operations all answered OK, with the bytes read. -/
def Memory.performAll (m : Memory) : List MemOp → List Byte × Memory
  | [] => ([], m)
  | o :: rest =>
    let (b, m) := m.perform o
    let (c, m) := m.performAll rest
    (b ++ c, m)

/-- Operations of which the first `k` are answered OK and the next FAULT; the later ones are not issued (R15 (3)). With
no operation at that index, the last one is answered FAULT. -/
def Memory.performFault (m : Memory) : List MemOp → Nat → Memory
  | [], _ => m
  | o :: [], _ => m.faulted o
  | o :: _ :: _, 0 => m.faulted o
  | o :: p :: rest, k + 1 => (m.perform o).2.performFault (p :: rest) k

/-! ## PORT_ACCESS_COMPLETE (R12) -/

/-- The data of a reply to a read: 00h in each denied position (R33 (2)). -/
def maskDenied : List Bool → List Byte → List Byte
  | true :: ps, b :: bs => b :: maskDenied ps bs
  | false :: ps, _ :: bs => 0 :: maskDenied ps bs
  | _, _ => []

/-- The reply to a completed access (R11, R34). -/
def InFlight.reply (f : InFlight) (data : List Byte) : Reply :=
  let body := match f.acc.kind with
    | .read => maskDenied f.permitted data
    | .write => []
  if f.permitted.all id then .done f.acc.len body else .partialDone (f.permitted.count true) body

/-- A PFW assertion that waits for the operation in progress ends in HALTED with READY asserted (R183). -/
def Tables.haltIfWaiting (u : Tables) : Tables :=
  if u.mode = .halting then { u with mode := .halted, ready := true } else u

/-- The grant ends: the reply leaves, the port is free (R12). -/
def State.endGrant (s : State) (a : Access) (r : Reply) : State :=
  ({ s with grant := none, tables := s.tables.haltIfWaiting }).answer a r

def State.accessOk (s : State) (f : InFlight) : State :=
  let (data, mem) := s.mem.performAll f.ops
  ({ s with mem, tables := s.tables.takeAccess f.acc f.take }).endGrant f.acc (f.reply data)

def State.accessFault (s : State) (f : InFlight) (k : Nat) : State :=
  ({ s with mem := s.mem.performFault f.ops k, tables := s.tables.faultAccess f.acc f.take }).endGrant f.acc
    memfaultReply

/-- PORT_ACCESS_COMPLETE (R12, R15, R40). -/
def execPortAccessComplete (answer : AccessAnswer) (s : State) : Host.Outcome State Fault Refusal :=
  match s.grant with
  | some (.port f) =>
    if f.ops.all MemOp.inRange then
      match answer with
      | .ok => .next (s.accessOk f)
      | .fault k => .next (s.accessFault f k)
    else .fault .addressOutsideMemory
  | _ => .next s

/-! ## APPLY_READ_COMPLETE, RECALL_READ_COMPLETE (R48, R49, R173, R183) -/

/-- An internal read answered: its bytes, none for FAULT. -/
def State.readAnswer (s : State) (addr len : Nat) : MemAnswer → Option (List Byte) × State
  | .ok =>
    let (b, mem) := s.mem.takeBytes addr len
    (some b, { s with mem, grant := none })
  | .fault => (none, { s with grant := none })

def Tables.loaderComplete (u : Tables) (r : LoaderRead) : Option (List Byte) → Tables
  | some b => u.loaderRead r b
  | none => u.loaderFault r

/-- APPLY_READ_COMPLETE (R48, R49). -/
def execApplyReadComplete (answer : MemAnswer) (s : State) : Host.Outcome State Fault Refusal :=
  match s.grant with
  | some (.loader r addr len) =>
    if opInRange addr len then
      let (b, s) := s.readAnswer addr len answer
      .next (s.setTables (s.tables.loaderComplete r b))
    else .fault .addressOutsideMemory
  | _ => .next s

/-- A recall read answered: recall goes on, or stops after PFW (R183 (1)). -/
def Tables.recallComplete (u : Tables) (r : RecallRead) (b : Option (List Byte)) : Tables :=
  if u.mode = .halting then u.haltIfWaiting else u.recallRead r b

/-- RECALL_READ_COMPLETE (R173). -/
def execRecallReadComplete (answer : MemAnswer) (s : State) : Host.Outcome State Fault Refusal :=
  match s.grant with
  | some (.recallRead r addr len) =>
    if opInRange addr len then
      let (b, s) := s.readAnswer addr len answer
      .next (s.setTables (s.tables.recallComplete r b))
    else .fault .addressOutsideMemory
  | _ => .next s

/-! ## WRITER_WRITE_COMPLETE (R166, R182) -/

/-- A journal entry leaves the pending list. -/
def Writer.dropPending (w : Writer) (seq : Word32) : Writer :=
  { w with pending := w.pending.filter fun e => e.entry.seq != seq }

/-- The drain ends (R182 (3)). -/
def Tables.halt (u : Tables) : Tables := { u with mode := .halted, ready := true }

def Tables.clearRetry (u : Tables) : Tables := u.setWriter { u.writer with retry := none }

/-- A write answered OK. -/
def Tables.writeDone (u : Tables) (j : WriterJob) : Tables :=
  let u := u.clearRetry
  match j with
  | .record _ => u
  | .half _ => u
  | .pending e => (u.setWriter (u.writer.dropPending e.entry.seq)).tryLost
  | .span _ => u.tryLost
  | .haltedHeader => u.halt

/-- WRITER_FAULT (R166 (2)). -/
def Tables.journalWriterFault (u : Tables) (code number : Byte) (addr : Nat) : Tables :=
  u.setLatch.journal .writerFault .warning number code (BitVec.ofNat 32 addr)

/-- A record that faults twice in the drain, before WRITER_FAULT is created for it (R182 (1)). -/
def Tables.barRecord (u : Tables) (r : RecId) : Tables :=
  if u.mode = .draining then u.setWriter (u.writer.bar r) else u
/-- A supervisor half that faults twice in the drain (R182 (1)). -/
def Tables.barHalf (u : Tables) (c : Cab) : Tables :=
  if u.mode = .draining then u.setWriter (u.writer.barHalf c) else u

/-- A record left dirty after its second fault joins the lazy set; in the drain it is not placed again (R166 (2),
R182 (1)). -/
def Tables.leaveDirty (u : Tables) (r : RecId) : Tables := if u.mode = .draining then u else u.markLazy r

/-- A supervisor half left dirty: its half mark is set again (R166 (2)). -/
def Tables.leaveHalfDirty (u : Tables) (c : Cab) : Tables :=
  if u.mode = .draining then u
  else (u.setWriter (u.writer.setHalf c)).markLazy (.cabinet c)

/-- A write answered FAULT for the second time (R166 (2), (3), R182). -/
def Tables.writeGivenUp (u : Tables) (j : WriterJob) (addr : Nat) : Tables :=
  let u := u.clearRetry
  match j with
  | .record r => ((u.barRecord r).journalWriterFault r.faultCode.1 r.faultCode.2 addr).leaveDirty r
  | .half c => ((u.barHalf c).journalWriterFault 0x09 (byteOf c.val) addr).leaveHalfDirty c
  | .pending e => ((u.setWriter (u.writer.dropPending e.entry.seq)).setLatch).tryLost
  | .span _ => u.setLatch.tryLost
  | .haltedHeader => u.setLatch.halt

/-- A write answered FAULT: the first makes it the retry (R166 (1)). -/
def Tables.writeFault (u : Tables) (j : WriterJob) (isRetry : Bool) (addr : Nat) : Tables :=
  if isRetry then u.writeGivenUp j addr else u.setWriter { u.writer with retry := some j }

/-- WRITER_WRITE_COMPLETE (R166). -/
def execWriterWriteComplete (answer : MemAnswer) (s : State) : Host.Outcome State Fault Refusal :=
  match s.grant with
  | some (.writer j isRetry addr bytes) =>
    if opInRange addr bytes.length then
      match answer with
      | .ok => .next { s with grant := none, mem := s.mem.putBytes addr bytes, tables := s.tables.writeDone j }
      | .fault =>
        .next { s with
          grant := none, mem := s.mem.spoil addr bytes.length, tables := s.tables.writeFault j isRetry addr }
    else .fault .addressOutsideMemory
  | _ => .next s

end Sys2Proof.Machine
end

