-- ==== Sys2Proof/Machine/Timers.lean ====
section
/-! DEFINITION. Time: the clock advance (R62) and the expiries of the part's timers (R3). -/

namespace Sys2Proof.Machine

/-! ## CLOCK_ADVANCE (R62) -/

def CabEntry.tick (e : CabEntry) : CabEntry :=
  { e with staleTimer := Timer.tick e.staleTimer, cmdTimer := Timer.tick e.cmdTimer }

def GroupEntry.tick (e : GroupEntry) : GroupEntry := { e with testTimer := Timer.tick e.testTimer }

def Visit.tick (v : Visit) : Visit :=
  { v with
    warnTimer := Timer.tick v.warnTimer, endTimer := Timer.tick v.endTimer, durTimer := Timer.tick v.durTimer }

/-- Every running timer counts one second (R62 (1)). -/
def Tables.tickTimers (u : Tables) : Tables :=
  { u with
    cabs := u.cabs.map CabEntry.tick
    groups := u.groups.map GroupEntry.tick
    visits := u.visits.map Visit.tick
    writer := { u.writer with flushTimer := Timer.tick u.writer.flushTimer } }

/-- One second of the clock input (R62). Before recall has set the clock it does not advance. -/
def Tables.advanceClock (u : Tables) : Tables :=
  if u.advancing then ({ u.tickTimers with clock := u.clock + 1 }).markLazy .header else u

/-- CLOCK_ADVANCE (R62). -/
def execClockAdvance (s : State) : Host.Outcome State Fault Refusal := .next (s.setTables s.tables.advanceClock)

/-! ## Expiries (R3)

A timer's expiry is the event of its block once the timer has counted down to 0. Before that, and for a stopped timer,
the event does not happen (notes/assumptions/11.md). -/

/-- The event of a timer that has reached 0. -/
def State.expire (s : State) (t : Timer) (event : Tables → Tables) : State :=
  if t = some 0 then s.setTables (event s.tables) else s

/-- STALE_TIMER_EXPIRY (R71). -/
def execStaleTimerExpiry (c : Cab) (s : State) : Host.Outcome State Fault Refusal :=
  .next (s.expire (s.tables.cab c).staleTimer fun u => u.staleTimerExpired c)

/-- A floor command of the cabinet in the gap between grant and completion learns that its timer has expired
(R86 (2)). -/
def Take.expireFor (c : Cab) : Take → Take
  | .floor d seq cmd undo expired => .floor d seq cmd undo (expired || c == d)
  | t => t

def Grant.expireFor (c : Cab) : Grant → Grant
  | .port f => .port { f with take := f.take.expireFor c }
  | g => g

/-- COMMAND_TIMER_EXPIRY (R89). -/
def execCommandTimerExpiry (c : Cab) (s : State) : Host.Outcome State Fault Refusal :=
  if (s.tables.cab c).cmdTimer = some 0 then
    .next { s with
      tables := s.tables.commandTimerExpired c, grant := s.grant.map (Grant.expireFor c) }
  else .next s

/-- The group test timer's expiry: the timer has stopped, and the test controller acts (R138). -/
def Tables.groupTimerExpired (u : Tables) (g : Grp) : Tables :=
  (u.setGrp g { u.grp g with testTimer := none }).groupTestExpired g

/-- GROUP_TEST_TIMER_EXPIRY (R138). -/
def execGroupTestTimerExpiry (g : Grp) (s : State) : Host.Outcome State Fault Refusal :=
  .next (s.expire (s.tables.grp g).testTimer fun u => u.groupTimerExpired g)

/-- IDLE_WARN_TIMER_EXPIRY (R153). -/
def execIdleWarnTimerExpiry (t : Con) (s : State) : Host.Outcome State Fault Refusal :=
  .next (s.expire (s.tables.vis t).warnTimer fun u => u.idleWarnExpired t)

/-- IDLE_END_TIMER_EXPIRY (R154). -/
def execIdleEndTimerExpiry (t : Con) (s : State) : Host.Outcome State Fault Refusal :=
  .next (s.expire (s.tables.vis t).endTimer fun u => u.idleEndExpired t)

/-- DURATION_TIMER_EXPIRY (R154). -/
def execDurationTimerExpiry (t : Con) (s : State) : Host.Outcome State Fault Refusal :=
  .next (s.expire (s.tables.vis t).durTimer fun u => u.durationExpired t)

/-- FLUSH_TIMER_EXPIRY (R165). -/
def execFlushTimerExpiry (s : State) : Host.Outcome State Fault Refusal :=
  .next (s.expire s.tables.writer.flushTimer Tables.flushNow)

end Sys2Proof.Machine
end

