-- ==== Sys2Proof/Machine/Lines.lean ====
section
/-! DEFINITION. The plain input lines: KEY (R142), RESET (R23) and PFW (R181, R183). -/

namespace Sys2Proof.Machine

/-! ## KEY (R142) -/

/-- KEY_TO_LOCKED (R142 (1)). While RESET is asserted only the line changes: the state is taken from it at the
deassertion. -/
def execKeyToLocked (s : State) : Host.Outcome State Fault Refusal :=
  let t := { s with keyLine := .locked }
  if s.tables.mode = .inReset ∨ s.tables.key = .locked then .next t else .next (t.setTables s.tables.keyLocked)

/-- KEY_TO_SERVICE (R142 (2)). -/
def execKeyToService (s : State) : Host.Outcome State Fault Refusal :=
  let t := { s with keyLine := .service }
  if s.tables.mode = .inReset then .next t else .next (t.setTables { s.tables with key := .service })

/-! ## RESET (R23) -/

/-- Operations cut off by a reset: the first ones were answered OK and have landed, the next one is in progress and leaves
its bytes undefined, and the later ones are not issued (R14, R23 (5)). How many had been answered is a FREE VALUE
(notes/assumptions/16.md). Record memory keeps what it would keep after a FAULT answered to the operation in progress. -/
def Memory.cutOff (m : Memory) (l : List MemOp) : Memory :=
  { m with fresh := m.fresh + 1 }.performFault l (Config.operationsAnswered m.fresh)

/-- The operations that the grant in progress carries, in the order they are issued (R14). -/
def Grant.ops : Grant → List MemOp
  | .port f => f.ops
  | .recallRead _ a n => [.read a n]
  | .loader _ a n => [.read a n]
  | .writer _ _ a bs => [.write a bs]

/-- RESET (R23): queues, grant and tables take their reset state; record memory keeps its contents, with the writes of the
grant in progress that it had answered OK, but for the one write in progress, whose bytes are undefined. -/
def execReset (s : State) : Host.Outcome State Fault Refusal :=
  .next { s with
    queues := .reset
    rotation := .internal
    grant := none
    mem := match s.grant with
      | some g => s.mem.cutOff g.ops
      | none => s.mem
    tables := .reset s.tables.key }

/-- RESET_RELEASE (R23, R142, R173): the key state is taken from the line, and start-up recall begins. -/
def execResetRelease (s : State) : Host.Outcome State Fault Refusal :=
  if s.tables.mode = .inReset then .next (s.setTables ({ s.tables with key := s.keyLine }).startRecall) else .next s

/-! ## PFW (R181, R183) -/

/-- The drain's part of the record writer (R181 (4)): the flush timer stops, the lazy set moves, the header is held
back. -/
def Writer.drain (w : Writer) : Writer := { w.flushLazy.unplace .header with flushTimer := none }

/-- The drain begins (R181). -/
def Tables.startDrain (u : Tables) : Tables :=
  let u := (({ u with apply := none }).endAllVisits .power).journal .powerWarn .warning 0 0 0
  { u.setWriter u.writer.drain with mode := .draining }

def Grant.isPort : Grant → Bool
  | .port _ => true
  | _ => false

def Grant.isRecall : Grant → Bool
  | .recallRead _ _ _ => true
  | _ => false

/-- The part halts at once, or at the completion of the operation in progress (R183). -/
def Tables.haltAfter (u : Tables) (waits : Bool) : Tables :=
  if waits then { u with mode := .halting } else u.halt

/-- The assertion of PFW, by the part's condition (R181, R183). -/
def State.powerFail (s : State) : State :=
  let u := s.tables
  match u.mode with
  | .running =>
    if u.nomap then s.setTables (({ u with apply := none }).haltAfter (s.grant.any Grant.isPort))
    else s.setTables u.startDrain
  | .recalling => s.setTables (u.haltAfter (s.grant.any Grant.isRecall))
  | .inReset | .draining | .halting | .halted => s

/-- PFW_ASSERT (R181, R183). A line that is asserted already has no edge. -/
def execPfwAssert (s : State) : Host.Outcome State Fault Refusal :=
  if s.pfwLine then .next s else .next ({ s with pfwLine := true }).powerFail

/-- PFW_DEASSERT (R21, R182): neither the drain nor HALTED is left. -/
def execPfwDeassert (s : State) : Host.Outcome State Fault Refusal := .next { s with pfwLine := false }

end Sys2Proof.Machine
end

