-- ==== Sys2Proof/Machine/Dispatch.lean ====
section
/-! DEFINITION. The dispatch: one arm per command, each a call of the command's own meaning. -/

namespace Sys2Proof.Machine

/-- A command's effect on everything but the queue. -/
def exec (i : Instr) (s : State) : Host.Outcome State Fault Refusal :=
  match i with
  | .frameReceived port frame => Sys2Proof.Machine.execFrameReceived port frame s
  | .portRead => Sys2Proof.Machine.execPortRead s
  | .plainWrite => Sys2Proof.Machine.execPlainWrite s
  | .configWindowWrite => Sys2Proof.Machine.execConfigWindowWrite s
  | .cabinetStatus => Sys2Proof.Machine.execCabinetStatus s
  | .toBypass => Sys2Proof.Machine.execToBypass s
  | .toOnline => Sys2Proof.Machine.execToOnline s
  | .testStart => Sys2Proof.Machine.execTestStart s
  | .testStop => Sys2Proof.Machine.execTestStop s
  | .measurement => Sys2Proof.Machine.execMeasurement s
  | .visitOpen => Sys2Proof.Machine.execVisitOpen s
  | .visitClose => Sys2Proof.Machine.execVisitClose s
  | .visitReplace => Sys2Proof.Machine.execVisitReplace s
  | .visitRetire => Sys2Proof.Machine.execVisitRetire s
  | .orderOffer => Sys2Proof.Machine.execOrderOffer s
  | .orderWithdraw => Sys2Proof.Machine.execOrderWithdraw s
  | .orderClear => Sys2Proof.Machine.execOrderClear s
  | .consumedJournalIndex => Sys2Proof.Machine.execConsumedJournalIndex s
  | .clockSet => Sys2Proof.Machine.execClockSet s
  | .flushRequest => Sys2Proof.Machine.execFlushRequest s
  | .faultClear => Sys2Proof.Machine.execFaultClear s
  | .portAccessComplete answer => Sys2Proof.Machine.execPortAccessComplete answer s
  | .internalGrant => Sys2Proof.Machine.execInternalGrant s
  | .applyReadComplete answer => Sys2Proof.Machine.execApplyReadComplete answer s
  | .recallReadComplete answer => Sys2Proof.Machine.execRecallReadComplete answer s
  | .writerWriteComplete answer => Sys2Proof.Machine.execWriterWriteComplete answer s
  | .clockAdvance => Sys2Proof.Machine.execClockAdvance s
  | .staleTimerExpiry c => Sys2Proof.Machine.execStaleTimerExpiry c s
  | .commandTimerExpiry c => Sys2Proof.Machine.execCommandTimerExpiry c s
  | .groupTestTimerExpiry g => Sys2Proof.Machine.execGroupTestTimerExpiry g s
  | .idleWarnTimerExpiry t => Sys2Proof.Machine.execIdleWarnTimerExpiry t s
  | .idleEndTimerExpiry t => Sys2Proof.Machine.execIdleEndTimerExpiry t s
  | .durationTimerExpiry t => Sys2Proof.Machine.execDurationTimerExpiry t s
  | .flushTimerExpiry => Sys2Proof.Machine.execFlushTimerExpiry s
  | .keyToLocked => Sys2Proof.Machine.execKeyToLocked s
  | .keyToService => Sys2Proof.Machine.execKeyToService s
  | .reset => Sys2Proof.Machine.execReset s
  | .resetRelease => Sys2Proof.Machine.execResetRelease s
  | .pfwAssert => Sys2Proof.Machine.execPfwAssert s
  | .pfwDeassert => Sys2Proof.Machine.execPfwDeassert s

end Sys2Proof.Machine
end

