-- ==== Sys2Proof/Safety.lean ====
section
/-! DEFINITION. What claims say about runs: outcomes that are a next state, and the invariants of the part that hold at
reset and that every step keeps. -/

namespace Sys2Proof.Machine

/-- The next state of an outcome, where there is one. -/
def nextOf : Host.Outcome State Fault Refusal → Option State
  | .next s => some s
  | .fault _ => none
  | .refused _ => none

/-! ## Port queues (R6, R7) -/

/-- An access as R6 has it: 1 to 256 bytes, and for a WRITE exactly as many data bytes. -/
abbrev Access.Shaped (a : Access) : Prop :=
  1 ≤ a.len ∧ a.len ≤ 256 ∧ a.data.length = (match a.kind with | .read => 0 | .write => a.len)

/-- A port's queue holds at most 4 accesses of that port, each shaped. -/
abbrev State.QueueOk (s : State) (p : Port) : Prop :=
  (s.queues.of p).length ≤ queueLimit ∧ ∀ a ∈ s.queues.of p, a.port = p ∧ a.Shaped

abbrev State.QueuesOk (s : State) : Prop := ∀ p, s.QueueOk p

/-! ## The record writer's lists and the spent list (R161, R163, R147) -/

/-- The unconsumed count; 0 until the journal head is established. -/
def Writer.unconsumed (w : Writer) : Nat :=
  match w.head with
  | some h => h.unconsumed
  | none => 0

/-- The sequence and ring position of the unconsumed entry `i` places after the oldest (R161 (3), R167). -/
def JHead.place (h : JHead) (i : Nat) : Word32 × Byte :=
  (h.nextSeq - BitVec.ofNat 32 h.unconsumed + BitVec.ofNat 32 i, h.oldest + BitVec.ofNat 8 i)

/-- The places of the unconsumed entries, oldest first. -/
def Writer.places (w : Writer) : List (Word32 × Byte) :=
  match w.head with
  | some h => (List.range h.unconsumed).map h.place
  | none => []

/-- The stamps of the urgent set, in its order, then the next stamp. -/
def Writer.urgentStamps (w : Writer) : List Nat := w.urgent.map (·.stamp) ++ [w.stamp]

/-- The stamps of the pending list, in its order (the held entries first), then the next stamp. -/
def Writer.listedStamps (w : Writer) : List Nat := w.held.map (·.stamp) ++ (w.pending.map (·.stamp) ++ [w.stamp])

/-- The pending list holds at most 32, held entries among them; no record has two places; the journal copy holds exactly
the unconsumed entries, their sequences and positions rising by one, at most 256 of them; nothing has a sequence before
the head is established; and the stamps of the urgent set and of the pending list rise in their order, all of them below
the next stamp, so that of two joinings the earlier has the smaller stamp (R164 (3)). -/
abbrev Writer.Sound (w : Writer) : Prop :=
  w.listed ≤ pendingLimit ∧ (w.urgent.map (·.what) ++ w.lazySet).Nodup ∧
    w.copy.map (fun e => (e.entry.seq, e.pos)) = w.places ∧ w.unconsumed ≤ ringSize ∧
    (w.head = none → w.pending = []) ∧ w.urgentStamps.Pairwise (· < ·) ∧ w.listedStamps.Pairwise (· < ·)

abbrev Tables.Sound (u : Tables) : Prop := u.writer.Sound ∧ u.spent.length ≤ spentLimit

/-! ## Addresses (R14, R51, R52) -/

/-- The config window and the seven areas, in the order R52 examines them. -/
def Block.ranges (b : Block) : List Range := windowRange :: allAreas.map fun a => (b.base a, a.size)

/-- The configuration's fields are those of the block's 1024 bytes, each at its offset of Table 2.12(4), multi-byte fields with
the low byte first. Of an attribute and of a group number the code is one that validation lets pass (R51); an absent cabinet's
other fields take no part. -/
def Block.Carries (b : Block) (l : List Byte) : Prop :=
  let b8 (o : Nat) : Nat := (byteAt l o).toNat
  let b16 (o : Nat) : Nat := (word16At l o).toNat
  let b32 (o : Nat) : Nat := (word32At l o).toNat
  let attr (o : Nat) (a : Attr) : Prop :=
    ∀ k : Attr, b8 o = (match k with | .none => 0 | .read => 1 | .write => 2 | .both => 3) → a = k
  b.generation = word16At l 2 ∧ (b.lock = true ↔ b8 6 = 1) ∧ b.attention = b8 7 ∧
    (∀ k : Fin 7, b.bases.at' k = b32 (0x10 + 4 * k.val)) ∧
    (∀ n : Fin 8,
      let r := b.regions.at' n
      let o := 0x40 + 8 * n.val
      r.base = b32 o ∧ r.size = b8 (o + 4) ∧ attr (o + 5) r.sup ∧ attr (o + 6) r.cab ∧ attr (o + 7) r.svc) ∧
    b.staleTime = b16 0x80 ∧ b.commandTime = b16 0x82 ∧ b.testMinutes = b16 0x84 ∧ b.idleWarn = b16 0x86 ∧
    b.idleEnd = b16 0x88 ∧ b.flushTime = b16 0x8A ∧ b.deepThreshold = b16 0x8C ∧ b.passCapacity = b8 0x8E ∧
    b.cyclesWatch = b16 0x90 ∧ b.cyclesDue = b16 0x92 ∧ b.thermalWatch = b16 0x94 ∧ b.thermalDue = b16 0x96 ∧
    b.deepWatch = b8 0x98 ∧ b.deepDue = b8 0x99 ∧ b.capacityWatch = b8 0x9A ∧ b.capacityDue = b8 0x9B ∧
    (∀ g : Grp,
      let e := b.groups.at' g
      let o := 0xC0 + 8 * g.val
      e.redundancy = b8 o ∧ e.headroom = b8 (o + 1) ∧ e.limit = b8 (o + 2)) ∧
    (∀ c : Cab,
      let e := b.cabs.at' c
      let o := 0x100 + 16 * c.val
      (e.present = true ↔ b8 o = 1) ∧
        (b8 o = 1 →
          (b8 (o + 1) < 8 → e.group.val = b8 (o + 1)) ∧ e.rated = b16 (o + 2) ∧ e.minUsable = b8 (o + 4) ∧
            ∀ (p : Pos) (n : Str), e.strings.at' p = some n ↔ b8 (o + 5 + p.val) = n.val)) ∧
    ∀ n : Str, b.capacities.at' n = b16 (0x300 + 2 * n.val)

/-- The seven areas lie within record memory, clear of the config window and of one another. -/
abbrev Block.Placed (b : Block) : Prop :=
  (∀ a ∈ allAreas, b.base a + a.size ≤ Config.memorySize) ∧
    b.ranges.Pairwise (fun x y => x.overlaps y = false)

/-- The active configuration, where there is one, is placed. -/
abbrev Tables.Placed (u : Tables) : Prop := ∀ b, u.active = some b → b.Placed

/-- Every operation of a grant in progress lies within record memory (R14). -/
def Grant.inRange : Grant → Bool
  | .port f => f.ops.all MemOp.inRange
  | .recallRead _ a n => opInRange a n
  | .loader _ a n => opInRange a n
  | .writer _ _ a bs => opInRange a bs.length

/-- The reads of an apply lie within record memory. -/
abbrev Tables.ReadsOk (u : Tables) : Prop :=
  ∀ a, u.apply = some a → ∀ r ∈ a.todo, opInRange r.addr readSize = true

/-- What makes every operation the part issues one that record memory has: the queues' accesses are shaped, the areas
of the active configuration are placed, and so are the reads and the grant under way; the spent list (its record has 64
bytes) and the writer's lists keep their bounds. -/
abbrev State.InMemory (s : State) : Prop :=
  s.QueuesOk ∧ s.tables.Placed ∧ s.tables.ReadsOk ∧ s.tables.Sound ∧
    ∀ g, s.grant = some g → g.inRange = true

/-! ## The interlocks (R90, R128, R136, R137) -/

/-- Every listed string has one place in the configuration (Table 3.3(1)). -/
abbrev Tables.ListedOnce (u : Tables) : Prop :=
  ∀ c p, (u.stringAt c p).all (fun n => u.place n == some (c, p)) = true

/-- The machine of a present member of the group is XFER_OUT, BYPASS, XFER_BACK or UNSANCTIONED. -/
def Tables.anyOut (u : Tables) (g : Grp) : Bool := (u.members g).any fun c => (u.cab c).machine.out

/-- No string has counted more than 2 suspensions (R136); an active test is the one test of its group (R126, R128); a live
one stands in no group with a member in XFER_OUT, BYPASS, XFER_BACK or UNSANCTIONED (R137); open visits have disjoint scopes
and different badges (08 section 8.3). -/
abbrev Tables.Interlocked (u : Tables) : Prop :=
  u.ListedOnce ∧ (∀ n, (u.str n).test.suspensions ≤ suspensionLimit) ∧
    (∀ n, (u.str n).test.state.active = true → ∃ c, u.owner n = some c ∧ (u.grp (u.groupOf c)).underTest = some n) ∧
    (∀ n, (u.str n).test.state.live = true → ∀ c, u.owner n = some c → u.anyOut (u.groupOf c) = false) ∧
    ∀ x y, x ≠ y → (u.vis x).state.isOpen = true → (u.vis y).state.isOpen = true →
      (u.vis x).scope &&& (u.vis y).scope = 0 ∧ (u.vis x).badge ≠ (u.vis y).badge

/-- What a FAULT answered to the access in flight brings back keeps the interlocks: the fields before a TEST_START, whose
string is its group's one test; the fields before a TEST_STOP that still is to be undone; the visit before an OPEN. -/
def Tables.UndoInterlocked (u : Tables) : Take → Prop
  | .floor _ _ _ (.testStart n saved) _ =>
    saved.suspensions ≤ suspensionLimit ∧
      ∀ m c d, u.owner n = some c → (u.str m).test.state.active = true → u.owner m = some d →
        u.groupOf d = u.groupOf c → m = n
  | .floor _ q _ (.stopLive n saved _) _ =>
    saved.suspensions ≤ suspensionLimit ∧
      ∀ c, u.owner n = some c → (u.str n).test.state = .stopping → (u.str n).test.awaitFloor = some q →
        u.anyOut (u.groupOf c) = false
  | .visitOpen _ _ _ saved => saved.state.isOpen = false
  | _ => True

def Grant.isLoader : Grant → Bool
  | .loader _ _ _ => true
  | _ => false

def RecallRead.ofBlock : RecallRead → Bool
  | .block _ => true
  | _ => false

/-- A block read of recall is pending or in progress (R174). -/
def State.readsBlock (s : State) : Bool :=
  s.tables.recalling.any (·.todo.any RecallRead.ofBlock) ||
    match s.grant with
    | some (.recallRead r _ _) => r.ofBlock
    | _ => false

/-- The interlocks hold, now and after a FAULT answered to the access in flight; while RESET is asserted, and while recall
still reads the block, there is no configuration that a test could run under. -/
abbrev State.Interlocked (s : State) : Prop :=
  s.tables.Interlocked ∧ (∀ f, s.grant = some (.port f) → s.tables.UndoInterlocked f.take) ∧
    (s.tables.mode = .inReset → s.tables.active = none ∧ s.grant = none) ∧
    (s.readsBlock = true →
      s.tables.active = none ∧ s.grant.any Grant.isLoader = false ∧
        (s.tables.mode = .recalling ∨ s.tables.mode = .halting ∨ s.tables.mode = .halted))

/-! ## Grants, as claims name them -/

/-- The requester after one in the cyclic order SUP, CAB, SVC, internal (R17). -/
def Requester.after : Requester → Requester
  | .sup => .cab
  | .cab => .svc
  | .svc => .internal
  | .internal => .sup

/-- A port access in flight is the head of its port's queue (R6). -/
abbrev State.HeadInFlight (s : State) : Prop :=
  ∀ f, s.grant = some (.port f) → (s.queues.of f.acc.port).head? = some f.acc

/-- A FAULT answered to a write with this take changes the tables: a reservation is undone, a request's result is set,
or the loader's copy is spoiled (R15, R41, R96, R149, R151). -/
def Take.answersFault : Take → Bool
  | .config | .floor .. | .visitOpen .. | .visitClose .. | .replace .. | .retire .. => true
  | _ => false

/-- The state after a permitted grant (R18): the rotation position is the port, the access is in flight with its
operations, and the tables are `u`. -/
def State.inFlight (s : State) (u : Tables) (a : Access) (ops : List MemOp) (permitted : List Bool) (take : Take) :
    State :=
  { s with rotation := .ofPort a.port, tables := u, grant := some (.port { acc := a, ops, permitted, take }) }

/-- The state after a permitted grant of a write that one operation covers (R14 (3)). -/
def State.inFlightWrite (s : State) (u : Tables) (a : Access) (take : Take) : State :=
  s.inFlight u a [.write a.addr a.data] (List.replicate a.len true) take

/-- The state after a grant refused at once (R12 (1)): the head has left its queue with its reply, the tables are
`u`. -/
def State.refusedAtGrant (s : State) (u : Tables) (a : Access) (reason : Reason) (detail : Option Cause) : State :=
  { s with
    rotation := .ofPort a.port, tables := u
    queues := s.queues.put a.port ((s.queues.of a.port).drop 1)
    sent := s.sent ++ [(a.port, (Reply.refused reason detail).frame a.txn)] }

/-- The state at the end of an access (R12): the port is free, the head has left its queue with its reply. -/
def State.replied (s : State) (m : Memory) (u : Tables) (a : Access) (r : Reply) : State :=
  { s with
    grant := none, mem := m, tables := u
    queues := s.queues.put a.port ((s.queues.of a.port).drop 1)
    sent := s.sent ++ [(a.port, r.frame a.txn)] }

/-- The arbiter's next grant is the write `a`, of `n` bytes at offset `off` of area `z`. -/
abbrev State.Writes (s : State) (a : Access) (z : Area) (off n : Nat) : Prop :=
  s.choice = some (.port a) ∧ a.kind = .write ∧ a.len = n ∧ a.data.length = n ∧
    ∃ b, s.tables.active = some b ∧ b.Placed ∧ a.addr = b.base z + off

/-- An SVC access on behalf of console `t`, with the service key at SERVICE (R31, R32). -/
abbrev State.FromConsole (s : State) (a : Access) (t : Con) : Prop :=
  a.port = .svc ∧ a.tag = byteOf t.val ∧ s.tables.key = .service

/-- A CAB access on behalf of a present cabinet (R32). -/
abbrev State.FromCabinet (s : State) (a : Access) (c : Cab) : Prop :=
  a.port = .cab ∧ a.tag = byteOf c.val ∧ s.tables.present c = true

/-- Who may write cabinet `c`'s floor half: SUP, or a console with an open visit that has `c` in its scope (R37); `con`
is the writing console, if any. -/
abbrev State.Commands (s : State) (a : Access) (c : Cab) (con : Option Con) : Prop :=
  (a.port = .sup ∧ con = none) ∨
    ∃ t, con = some t ∧ s.FromConsole a t ∧ (s.tables.vis t).state.isOpen = true ∧
      hasBit (s.tables.vis t).scope c.val = true

/-- The arbiter's next grant is a floor half of cabinet `c` that passes R85 (1) to (3), with command code `code`. -/
abbrev State.WritesFloorHalf (s : State) (a : Access) (c : Cab) (con : Option Con) (code : Byte) : Prop :=
  s.Writes a .cabcmd (16 * c.val) 8 ∧ s.Commands a c con ∧ checkHolds a.data = true ∧ byteAt a.data 1 = code ∧
    seqPasses (s.tables.cab c).lastSeq (byteAt a.data 0) = true ∧ (s.tables.cab c).outstanding = false

/-- The arbiter's next grant is a visit request of console `t` that passes R149 (1), (2), with action code `code`. -/
abbrev State.WritesRequest (s : State) (a : Access) (t : Con) (code : Byte) : Prop :=
  s.Writes a .visit (32 * t.val) 32 ∧ s.FromConsole a t ∧ checkHolds a.data = true ∧ byteAt a.data 1 = code ∧
    seqPasses (s.tables.vis t).lastReq (byteAt a.data 0) = true

/-- The cabinet's last reported mode. -/
def Tables.lastModeIs (u : Tables) (c : Cab) (m : CabMode) : Prop := ∃ r, (u.cab c).report = some r ∧ r.mode = m

/-- The commands that grant a port access, with the row each stands for. -/
def grantCommands : List (Instr × Row) :=
  [(.portRead, .portRead), (.plainWrite, .plainWrite), (.configWindowWrite, .configWindowWrite),
    (.cabinetStatus, .cabinetStatus), (.toBypass, .toBypass), (.toOnline, .toOnline), (.testStart, .testStart),
    (.testStop, .testStop), (.measurement, .measurement), (.visitOpen, .visitOpen), (.visitClose, .visitClose),
    (.visitReplace, .visitReplace), (.visitRetire, .visitRetire), (.orderOffer, .orderOffer),
    (.orderWithdraw, .orderWithdraw), (.orderClear, .orderClear), (.consumedJournalIndex, .consumedIndex),
    (.clockSet, .clockSet), (.flushRequest, .flushRequest), (.faultClear, .faultClear)]

/-- Everything but the tables is as it was. -/
abbrev State.SameButTables (s t : State) : Prop := t = s.setTables t.tables

/-- The tables of the units other than the record writer are as they were. -/
abbrev Tables.SameButWriter (u v : Tables) : Prop := v = u.setWriter v.writer

/-- Of the record writer only marks have moved: the urgent set, the lazy set, the half marks and the next stamp. -/
abbrev Writer.OnlyMarked (w x : Writer) : Prop :=
  x = { w with urgent := x.urgent, lazySet := x.lazySet, half := x.half, stamp := x.stamp }

/-- `v` is `u` but for marks of the record writer. -/
abbrev Tables.OnlyMarked (u v : Tables) : Prop := u.SameButWriter v ∧ u.writer.OnlyMarked v.writer

/-- The units' entries once console `t`'s visit is over (R157): the visit ENDED with its reason and no timer, its order
in its final state and bound to no one, its number in the spent list, no cabinet held for `t`. -/
def Tables.visitOver (u : Tables) (t : Con) (reason : EndReason) (final : OrderState) : Tables :=
  let v := u.vis t
  { u.setVis t { v with state := .ended, reason, warnTimer := none, endTimer := none, durTimer := none } with
    orders := match u.boundSlot t with
      | some n => u.orders.put n { u.ord n with state := final, bound := none }
      | none => u.orders
    spent := spentJoin u.spent v.order
    cabs := u.cabs.map fun e => if e.holder = some t then { e with holder := none } else e }

/-! ## The hand-over of an apply (R55 to R59), as claims name it -/

/-- What an apply that takes effect hands one cabinet, by its presence before and after (R55); `moved` says that the
command slots were read at a new place, `commands` (R58 (1)). -/
def Tables.CabHanded (u : Tables) (b : Block) (commands : List Byte) (c : Cab) (e : CabEntry) : Prop :=
  let old := u.cab c
  let was := u.present c
  let now := (b.cabs.at' c).present
  let moved : Bool := !commands.isEmpty
  e.machine = (if was = now then old.machine else if now then .learning else .absent) ∧
    e.holder = (if was = now then old.holder else none) ∧ e.fresh = (if was = now then old.fresh else false) ∧
    e.staleTimer = (if was = now then old.staleTimer else none) ∧
    e.report = (if now && !was then none else old.report) ∧ e.load = (if now && !was then 0 else old.load) ∧
    e.lastSeq = (if moved then some (byteAt commands (16 * c.val)) else old.lastSeq) ∧
    e.outstanding = (if moved || (was && !now) then false else old.outstanding) ∧
    (moved = true → e.lastCmd = none) ∧ (was && !now → e.cmdTimer = none) ∧
    ((∀ g, (u.grp g).underTest = none) →
      e.supSeq = (if moved then some (byteAt commands (16 * c.val + 8)) else old.supSeq) ∧
        (moved = true → e.cmdTimer = none))

/-- What it hands one string: its rated capacity and the thresholds, where a present cabinet lists it (R56). -/
def Tables.StringHanded (u : Tables) (b : Block) (n : Str) (w : Tables) : Prop :=
  let lists (k : Block) : Prop := ∃ c p, (k.cabs.at' c).present = true ∧ (k.cabs.at' c).strings.at' p = some n
  let old := u.str n
  let e := w.str n
  let new : Prop := ∀ o, u.active = some o → ¬ lists o ∨ o.capacities.at' n ≠ b.capacities.at' n
  (lists b → new → e.rated = BitVec.ofNat 16 (b.capacities.at' n)) ∧ (¬ (lists b ∧ new) → e.rated = old.rated) ∧
    (¬ lists b → e.age = old.age) ∧
    (lists b →
      e.age =
        match old.age with
        | .healthy => if w.meetsDue e then .due else if w.meetsWatch e then .watch else .healthy
        | .watch => if w.meetsDue e then .due else .watch
        | k => k)

/-- The whole hand-over: `w` are the tables after the block `b` has taken effect on `u`, with the command slots and the
work order slots re-read at their new places, empty where they were not. -/
def Tables.HandedOver (u : Tables) (b : Block) (commands orders : List Byte) (w : Tables) : Prop :=
  (∀ c, u.CabHanded b commands c (w.cab c)) ∧
    (∀ n,
      let o := u.ord n
      let slot := slice orders (32 * n.val) 32
      w.ord n =
        if orders ≠ [] ∧ (o.state = .offered ∨ o.state = .withdrawn) ∧
            ¬ (checkHolds slot = true ∧ word32At slot 4 = o.number) then .reset
        else o) ∧
    (∀ n, u.StringHanded b n w) ∧
    (∀ g, (w.grp g).load = w.loadOf g ∧ (w.grp g).bypassCount = w.bypassCountOf g ∧ (w.grp g).state = w.groupStateOf g) ∧
    w.visits = u.visits ∧ w.spent = u.spent ∧ w.clock = u.clock ∧
    (∀ o, u.active = some o → o.bases.at' 6 ≠ b.bases.at' 6 → u.mode = .running →
      (∀ r ∈ allRecords, r ∉ u.writer.barred → w.writer.inUrgent r = true) ∧
        w.writer.span = w.writer.copy.filter fun e =>
          !e.givenUp && !(w.writer.pending.map (·.entry.seq)).contains e.entry.seq) ∧
    (u.writer.head ≠ none →
      (w.writer.attn = true ↔ w.writer.latch = true ∨ ∃ e ∈ w.writer.copy, b.attention ≤ e.entry.severity.toNat))

end Sys2Proof.Machine
end

