-- ==== Sys2Proof/Certificates/Slice0/Obligations.lean ====
section
/-! DEFINITION. The statements for the provers. Each is about every state and every operand that meets its hypotheses;
the docstring names the rule of spec/ it comes from, and says where a clause is the model's own choice. -/

open Sys2Proof Sys2Proof.Machine

/-! ## The queue of commands -/

/-- A step takes the front command and executes it with the queue's rest. -/
def Obligations.StepRunsTheFrontCommand : Prop :=
  ∀ (c : Instr) (rest : List Instr) (s : State),
    step { s with pending := c :: rest } = exec c { s with pending := rest }

/-- What power-on leaves (Tables 1.8(1), 3.1(1), 7.1(2), 9.1(2); R67, R75, R84, R107, R126, R143, R147, R148), for the
values the spec gives. That the part is in reset then is the model's choice (notes/assumptions/19.md), and that a visit's or a
work order's absent fields stand as 0 (notes/assumptions/45.md). -/
def Obligations.ResetLeavesTheTabledValues : Prop :=
  let s := State.reset
  let u := s.tables
  (∀ p, s.queues.of p = []) ∧ s.rotation = .internal ∧ s.grant = none ∧ s.pending = [] ∧
    u.mode = .inReset ∧ u.ready = false ∧ u.active = none ∧ u.apply = none ∧ u.lock = false ∧ u.clock = 0 ∧
    u.synced = false ∧ u.advancing = false ∧ u.lastConsumed = none ∧ u.genLow = none ∧ u.genHigh = none ∧
    (∀ c, u.present c = false ∧ u.cab c =
      { fresh := false, staleTimer := none, report := none, load := 0, usableCount := 0, supporting := false
        machine := .absent, holder := none, lastSeq := none, lastCmd := none, outstanding := false, cmdTimer := none
        refusal := none, refusalTime := 0, supSeq := none, supCmd := none, supAwaited := false }) ∧
    (∀ g, u.grp g =
      { state := .learning, load := 0, supCount := 0, margin := 0, bypassCount := 0, underTest := none
        testTimer := none }) ∧
    (∀ n,
      let e := u.str n
      e.age = .unverified ∧ e.usable = false ∧ u.owner n = none ∧ e.rated = 0 ∧ e.install = 0 ∧ e.discharged = 0 ∧
        e.thermal = 0 ∧ e.remainder = 0 ∧ e.deepCount = 0 ∧ e.episode = false ∧ e.lastCapacity = none ∧
        e.lastSeq = none ∧ e.lastMode = none ∧
        e.test =
          { state := .idle, charge := 0, suspensions := 0, starter := .none, result := .none, cause := .none
            awaitFloor := none, awaitSup := none }) ∧
    (∀ t, u.vis t =
      { state := .none, order := 0, badge := 0, scope := 0, perms := 0, openTime := 0, activity := 0, reason := .none
        lastReq := none, lastResult := none, warnTimer := none, endTimer := none, durTimer := none }) ∧
    (∀ n, u.ord n =
      { state := .empty, number := 0, scope := 0, perms := 0, windowStart := 0, windowEnd := 0, maxMinutes := 0
        bound := none }) ∧
    u.spent = [] ∧ (∀ c, u.writer.half.at' c = false) ∧
    u.writer.urgent = [] ∧ u.writer.lazySet = [] ∧ u.writer.pending = [] ∧ u.writer.held = [] ∧
    u.writer.head = none ∧ u.writer.copy = [] ∧ u.writer.span = [] ∧ u.writer.retry = none ∧
    u.writer.latch = false ∧ u.writer.attn = false ∧ u.writer.flushTimer = none ∧ u.writer.status = .running ∧
    u.writer.applyResult = .none ∧ u.writer.failOffset = 0xFFFF

/-! ## Frames (01 sections 1.1, 1.2) -/

/-- A frame that passes the checks of R4 on a link under no flow hold joins the tail of its queue with its fields; on
SVC the activity notice goes with it (R6, R8, R9).

R7: a held link's frame is neither received nor checked. That the frame, kept by its sender, is a command without
effect is the model's form (notes/assumptions/12.md). -/
def Obligations.GoodFrameJoinsTheTailUnlessHeld : Prop :=
  (∀ (s : State) (p : Port) (k : Kind) (high txn : BitVec 4) (tag a0 a1 a2 len : Byte) (data : List Byte),
     (s.tables.mode = .recalling ∨ s.tables.mode = .running) → (s.queues.of p).length < 4 →
     data.length = (match k with | .read => 0 | .write => frameLen len) →
     let kind : Byte := match k with | .read => 1 | .write => 2
     let body := [kind, high ++ txn, tag, a0, a1, a2, len] ++ data
     let a : Access :=
       { port := p, kind := k, txn, tag, addr := a0.toNat + 0x100 * a1.toNat + 0x10000 * a2.toNat,
         len := frameLen len, data }
     exec (.frameReceived p (body ++ le16 (crc body))) s =
       .next { s with
         queues := s.queues.put p (s.queues.of p ++ [a])
         tables := if p = .svc then s.tables.activityNotice tag else s.tables }) ∧
  (∀ (s : State) (p : Port) (frame : List Byte),
     (4 ≤ (s.queues.of p).length ∨ s.tables.mode = .inReset ∨ s.tables.mode = .draining ∨ s.tables.mode = .halting ∨
       s.tables.mode = .halted) →
     exec (.frameReceived p frame) s = .next s)

/-- R5: a frame that fails a check of R4 leaves no trace. -/
def Obligations.FailingFrameLeavesNoTrace : Prop :=
  ∀ (s : State) (p : Port) (body check : List Byte), 7 ≤ body.length → check.length = 2 →
    let kind := byteAt body 0
    let count := body.length - 7
    (check ≠ le16 (crc body) ∨ (kind ≠ 1 ∧ kind ≠ 2) ∨ (kind = 1 ∧ count ≠ 0) ∨
      (kind = 2 ∧ count ≠ frameLen (byteAt body 6))) →
    exec (.frameReceived p (body ++ check)) s = .next s

/-- R152, R9: what the notice of an accepted SVC frame does to the console's visit, and to nothing else but the
writer. -/
def Obligations.ActivityNoticeRestartsTheIdleTimers : Prop :=
  ∀ (u : Tables) (t : Con),
    let v := u.vis t
    (v.state.isOpen = false → u.activityNotice (byteOf t.val) = u) ∧
    (v.state.isOpen = true →
      let w := u.activityNotice (byteOf t.val)
      w.vis t =
        { v with
          state := .opened, activity := u.clock, warnTimer := some (u.limit (·.idleWarn)),
          endTimer := some (u.limit (·.idleEnd)) } ∧
      (u.heldBack (.visit t) = false → v.state = .warned → w.writer.inUrgent (.visit t) = true) ∧
      w.writer.pending = u.writer.pending ∧
      w.SameButWriter (u.setVis t (w.vis t)) ∧ ∀ x, x ≠ t → w.vis x = u.vis x) ∧
    ∀ tag : Byte, 4 ≤ tag.toNat → u.activityNotice tag = u

/-! ## The arbiter (01 section 1.5) -/

/-- R17: with the port free, the first eligible requester after the rotation position is chosen, in cyclic order; none
when none is eligible.

R16 to R21: which head a port offers: the head of its queue, while the part runs, unless an apply holds it. -/
def Obligations.ArbiterChoosesTheFirstEligibleAfterTheRotation : Prop :=
  (∀ s : State, s.grant = none →
     (∀ (k : Fin 4) (c : Choice), s.offer (iterate Requester.after (k.val + 1) s.rotation) = some c →
       (∀ j : Fin 4, j < k → s.offer (iterate Requester.after (j.val + 1) s.rotation) = none) →
       s.choice = some c) ∧
     ((∀ r, s.offer r = none) → s.choice = none)) ∧
  (∀ (s : State) (p : Port) (a : Access) (rest : List Access), s.queues.of p = a :: rest →
     s.offer (.ofPort p) =
       if s.tables.mode = .running ∧
           ¬ (a.port = .sup ∧ a.kind = .write ∧ a.addr < 0x400 ∧ 0 < a.addr + a.len ∧ s.tables.apply.isSome = true)
       then some (.port a) else none)

/-- A command that the state does not enable changes nothing: a grant while one is in progress (R18), an expiry of a
timer that has not come to 0. The model's form (notes/assumptions/10.md, 11.md).

On an empty queue the block idles. The model's choice (notes/assumptions/9.md). -/
def Obligations.CommandsNotEnabledChangeNothing : Prop :=
  ((∀ (s : State) (i : Instr) (r : Row), s.grant ≠ none → (i, r) ∈ grantCommands → exec i s = .next s) ∧
   (∀ s : State, s.grant ≠ none → exec .internalGrant s = .next s) ∧
   (∀ (s : State) (c : Cab), (s.tables.cab c).staleTimer ≠ some 0 → exec (.staleTimerExpiry c) s = .next s) ∧
   (∀ (s : State) (c : Cab), (s.tables.cab c).cmdTimer ≠ some 0 → exec (.commandTimerExpiry c) s = .next s) ∧
   (∀ (s : State) (g : Grp), (s.tables.grp g).testTimer ≠ some 0 → exec (.groupTestTimerExpiry g) s = .next s) ∧
   (∀ (s : State) (t : Con), (s.tables.vis t).warnTimer ≠ some 0 → exec (.idleWarnTimerExpiry t) s = .next s) ∧
   (∀ (s : State) (t : Con), (s.tables.vis t).endTimer ≠ some 0 → exec (.idleEndTimerExpiry t) s = .next s) ∧
   (∀ (s : State) (t : Con), (s.tables.vis t).durTimer ≠ some 0 → exec (.durationTimerExpiry t) s = .next s) ∧
   (∀ s : State, s.tables.writer.flushTimer ≠ some 0 → exec .flushTimerExpiry s = .next s)) ∧
  (∀ s : State, s.pending = [] → step s = .next s)

/-! ## Refusals at grant (02 sections 2.1 to 2.9) -/

/-- Table 2.4(1), steps 1 to 6, in their order, for any chosen access. -/
def Obligations.DecisionStepsRefuseInTheirOrder : Prop :=
  ∀ (s : State) (a : Access) (i : Instr) (r : Row), s.choice = some (.port a) → a.Shaped →
    (i, r) ∈ grantCommands → (s.tables.rowsOf a).contains r = true →
    let u := s.tables
    let wholly (x : Range) : Prop := x.1 ≤ a.addr ∧ a.addr + a.len ≤ x.1 + x.2
    let touches (x : Range) : Prop := a.addr < x.1 + x.2 ∧ x.1 < a.addr + a.len
    let refused (k : Reason) : Prop := exec i s = .next (s.refusedAtGrant u a k none)
    if 0x100000 < a.addr + a.len then refused .range
    else if u.active = none ∧ ¬ (a.port = .sup ∧ wholly windowRange) then refused .nomap
    else if a.port = .svc ∧ u.key = .locked then refused .key
    else if a.port = .svc ∧ 3 < a.tag.toNat then refused .denied
    else if a.port = .sup ∧ a.kind = .write ∧ touches windowRange ∧ u.lock = true then refused .locked
    else ∀ b, u.active = some b → b.Placed → (∃ x ∈ b.ranges, touches x ∧ ¬ wholly x) → refused .shape

/-- Rights, shape, slot right and check byte of a typed write (R36 to R39), in that order, for a write that lies wholly
in an area and is not refused before. The units of R38: a record of 32 bytes, a half of a command slot, a CTRL field.
The slot rights of R37: a cabinet's own status slot, the slots of its own strings, a console's own request slot; no
supervisor half for anyone; a floor half for SUP, and for a console whose open visit has the cabinet in its scope.

A write of CAB or SVC in the config window is refused DENIED (R36). -/
def Obligations.TypedWritesAreRefusedDeniedThenShape : Prop :=
  (∀ (s : State) (a : Access) (i : Instr) (r : Row) (b : Block) (z : Area),
     s.choice = some (.port a) → a.kind = .write → a.Shaped → s.tables.active = some b → b.Placed →
     b.base z ≤ a.addr → a.addr + a.len ≤ b.base z + z.size →
     (a.port = .svc → s.tables.key = .service ∧ a.tag.toNat ≤ 3) →
     (i, r) ∈ grantCommands → (s.tables.rowsOf a).contains r = true →
     let u := s.tables
     let off := a.addr - b.base z
     let mayWrite : Bool :=
       match z, a.port with
       | .cabstat, .cab | .cabcmd, .sup | .cabcmd, .svc | .measure, .cab | .visit, .svc | .workord, .sup
       | .ctrl, .sup => true
       | _, _ => false
     let unit : Prop :=
       match z with
       | .cabcmd => off % 8 = 0 ∧ a.len = 8
       | .ctrl => (off, a.len) = (0, 2) ∨ (off, a.len) = (4, 4) ∨ (off, a.len) = (8, 1) ∨ (off, a.len) = (9, 1)
       | _ => off % 32 = 0 ∧ a.len = 32
     let ownCabinet (c : Cab) : Prop := a.tag.toNat = c.val ∧ u.present c = true
     let foreign : Prop :=
       match z with
       | .cabstat => ¬ ∃ c, ownCabinet c ∧ c.val = off / 32
       | .measure => ¬ ∃ c, ownCabinet c ∧ ∃ n ∈ u.stringsOf c, n.val = off / 32
       | .visit => a.tag.toNat ≠ off / 32
       | .cabcmd => off % 16 = 8
       | _ => False
     let outOfScope : Prop :=
       z = .cabcmd ∧ a.port = .svc ∧
         ¬ ∃ t : Con, t.val = a.tag.toNat ∧ (u.vis t).state.isOpen = true ∧ hasBit (u.vis t).scope (off / 16) = true
     let refused (k : Reason) (d : Option Cause) : Prop := exec i s = .next (s.refusedAtGrant u a k d)
     (mayWrite = false → refused .denied none) ∧
     (mayWrite = true → ¬ unit → refused .shape none) ∧
     (mayWrite = true → unit → foreign → refused .denied none) ∧
     (mayWrite = true → unit → ¬ foreign → outOfScope → refused .scope (some .outOfScope)) ∧
     (mayWrite = true → unit → ¬ foreign → ¬ outOfScope → z ≠ .ctrl → checkHolds a.data = false →
       refused .shape none)) ∧
  (∀ (s : State) (a : Access) (i : Instr) (r : Row), s.choice = some (.port a) → a.kind = .write → a.Shaped →
     s.tables.active ≠ none → a.port ≠ .sup → a.addr + a.len ≤ 0x400 →
     (a.port = .svc → s.tables.key = .service ∧ a.tag.toNat ≤ 3) →
     (i, r) ∈ grantCommands → (s.tables.rowsOf a).contains r = true →
     exec i s = .next (s.refusedAtGrant s.tables a .denied none))

/-- A floor half refused at steps 2 and 3 of R85: a sequence that is not the next is SHAPE, an outstanding command is
BUSY; nothing else changes. A floor half whose command code is none of the four is refused SHAPE at step 1, whatever its
sequence. -/
def Obligations.FloorHalfOutOfTurnIsRefusedShapeOrBusy : Prop :=
  ∀ (s : State) (a : Access) (c : Cab) (con : Option Con),
    s.Writes a .cabcmd (16 * c.val) 8 → s.Commands a c con → checkHolds a.data = true →
    (∀ k : Fin 4, byteAt a.data 1 = byteOf (k.val + 1) →
      let i : Instr := match k with | 0 => .toBypass | 1 => .toOnline | 2 => .testStart | 3 => .testStop
      if seqPasses (s.tables.cab c).lastSeq (byteAt a.data 0) = false then
        exec i s = .next (s.refusedAtGrant s.tables a .shape none)
      else (s.tables.cab c).outstanding = true → exec i s = .next (s.refusedAtGrant s.tables a .busy none)) ∧
    ((byteAt a.data 1 = 0 ∨ 4 < (byteAt a.data 1).toNat) →
      exec .plainWrite s = .next (s.refusedAtGrant s.tables a .shape none))

/-! ## Reads and plain writes (02 sections 2.3, 2.7, 2.8) -/

/-- R27, R28: the permission of a byte in plain memory: the region's attribute for the port where one enabled region
holds the byte, SUP alone where none does. -/
def Obligations.PlainBytesFollowTheirRegion : Prop :=
  ∀ (u : Tables) (b : Block) (p : Port) (k : Kind) (x : Nat), u.active = some b →
    let holds (r : Region) : Prop := r.size ≠ 0 ∧ r.base ≤ x ∧ x < r.base + regionSize r.size
    ((∀ n, ¬ holds (b.regions.at' n)) → (u.bytePermitted p k x = true ↔ p = .sup)) ∧
    ∀ n, holds (b.regions.at' n) → (∀ m, holds (b.regions.at' m) → m = n) →
      (u.bytePermitted p k x = true ↔
        (match (b.regions.at' n).attr p with
          | .none => False
          | .read => k = .read
          | .write => k = .write
          | .both => True))

/-- A read in plain memory with a permitted byte, and a read wholly in an area by a port with the right (Table 2.8(1)),
are granted as one memory read; a read of plain memory with no permitted byte (R34 (3)), and a read of an area or of the
config window by a port without the right (R35), are refused DENIED.

R25, R30: in the NOMAP state a SUP read wholly in the config window is granted as one memory read, and any other read is
refused NOMAP. -/
def Obligations.PermittedReadIsGrantedAsOneOperation : Prop :=
  (∀ (s : State) (a : Access) (b : Block), s.choice = some (.port a) → a.kind = .read → a.Shaped →
     s.tables.active = some b → b.Placed → a.addr + a.len ≤ 0x100000 →
     (a.port = .svc → s.tables.key = .service ∧ a.tag.toNat ≤ 3) →
     let granted (permitted : List Bool) : Prop :=
       exec .portRead s = .next (s.inFlight s.tables a [.read a.addr a.len] permitted .nothing)
     let denied : Prop := exec .portRead s = .next (s.refusedAtGrant s.tables a .denied none)
     ((∀ x ∈ b.ranges, ¬ (a.addr < x.1 + x.2 ∧ x.1 < a.addr + a.len)) →
       ((s.tables.permittedBytes a).any id = true → granted (s.tables.permittedBytes a)) ∧
       ((s.tables.permittedBytes a).any id = false → denied)) ∧
     (∀ z : Area, b.base z ≤ a.addr → a.addr + a.len ≤ b.base z + z.size →
       let mayRead : Prop :=
         (a.port = .cab → z = .cabstat ∨ z = .cabcmd ∨ z = .measure ∨ z = .state) ∧ (a.port = .svc → z ≠ .ctrl)
       (mayRead → granted (List.replicate a.len true)) ∧ (¬ mayRead → denied)) ∧
     (a.addr + a.len ≤ 0x400 →
       (a.port ≠ .cab → granted (List.replicate a.len true)) ∧ (a.port = .cab → denied))) ∧
  ∀ (s : State) (a : Access), s.choice = some (.port a) → a.kind = .read → a.Shaped → s.tables.active = none →
    a.addr + a.len ≤ 0x100000 →
    (a.port = .sup → a.addr + a.len ≤ 0x400 →
      exec .portRead s =
        .next (s.inFlight s.tables a [.read a.addr a.len] (List.replicate a.len true) .nothing)) ∧
    (¬ (a.port = .sup ∧ a.addr + a.len ≤ 0x400) →
      exec .portRead s = .next (s.refusedAtGrant s.tables a .nomap none))

/-- A write in plain memory with a permitted byte is granted as its permitted runs (R33).

R33: each run is one longest sequence of consecutive permitted bytes, and the runs stand in ascending address order; they land
the permitted bytes and no others. -/
def Obligations.PlainWriteLandsItsPermittedBytes : Prop :=
  (∀ (s : State) (a : Access) (b : Block), s.choice = some (.port a) → a.kind = .write → a.Shaped →
     s.tables.active = some b → b.Placed → a.addr + a.len ≤ 0x100000 →
     (a.port = .svc → s.tables.key = .service ∧ a.tag.toNat ≤ 3) →
     (∀ x ∈ b.ranges, ¬ (a.addr < x.1 + x.2 ∧ x.1 < a.addr + a.len)) →
     let p := s.tables.permittedBytes a
     (p.any id = true →
       exec .plainWrite s = .next (s.inFlight s.tables a (runsFrom a.addr [] (p.zip a.data)) p .nothing)) ∧
     (p.any id = false → exec .plainWrite s = .next (s.refusedAtGrant s.tables a .denied none))) ∧
  (∀ (addr : Nat) (p : List Bool) (data : List Byte), p.length = data.length →
     let runs := runsFrom addr [] (p.zip data)
     (∀ o ∈ runs, ∃ i bytes, o = .write (addr + i) bytes ∧ 1 ≤ bytes.length ∧
       ∀ j, j < bytes.length → p[i + j]? = some true ∧ bytes[j]? = data[i + j]?) ∧
     (∀ i, p[i]? = some true → ∃ x bytes, MemOp.write x bytes ∈ runs ∧ x ≤ addr + i ∧ addr + i < x + bytes.length) ∧
     ∀ l r x y b c, runs = l ++ .write x b :: r → .write y c ∈ r → x + b.length < y) ∧
  (∀ (m : Memory) (addr : Nat) (p : List Bool) (data : List Byte), m.wf = true → p.length = data.length →
     ∀ x, (m.performAll (runsFrom addr [] (p.zip data))).2.look x =
       if addr ≤ x ∧ p[x - addr]? = some true then data[x - addr]? else m.look x)

/-! ## Typed writes granted (02 section 2.10; 03 section 3.8; 04 section 4.2; 06 section 6.2) -/

/-- A SUP write wholly in the config window is granted while the lock is clear, in the NOMAP state too (R25, R29,
R61). While it is the arbiter's choice, no apply holds it (R20). -/
def Obligations.ConfigWindowWriteIsGrantedUnlessLocked : Prop :=
  ∀ (s : State) (a : Access), s.choice = some (.port a) → a.port = .sup → a.kind = .write → a.Shaped →
    a.addr + a.len ≤ 0x400 →
    s.tables.apply = none ∧
    (s.tables.lock = false → exec .configWindowWrite s = .next (s.inFlightWrite s.tables a .config)) ∧
    (s.tables.lock = true → exec .configWindowWrite s = .next (s.refusedAtGrant s.tables a .locked none))

/-- R68: a cabinet's status record whose four checked fields pass is granted, whatever its load and acknowledgments and
whatever the tables hold of the cabinet; one with another cabinet number, or with a mode, utility state or floor result that
is not listed, is refused SHAPE, and no field of the tables changes. -/
def Obligations.StatusRecordIsGranted : Prop :=
  ∀ (s : State) (a : Access) (c : Cab),
    s.Writes a .cabstat (32 * c.val) 32 → s.FromCabinet a c → checkHolds a.data = true →
    (∀ (m : CabMode) (v : Utility) (f : FloorResult),
      byteAt a.data 0 = byteOf c.val →
      byteAt a.data 1 =
        (match m with
          | .onlineInverter => 0 | .onBattery => 1 | .staticBypass => 2 | .maintBypass => 3 | .off => 4 | .fault => 5) →
      byteAt a.data 2 = (match v with | .ok => 0 | .lost => 1) →
      byteAt a.data 3 = (match f with | .accepted => 0 | .declined => 1) →
      exec .cabinetStatus s =
        .next (s.inFlightWrite s.tables a
          (.status c
            { mode := m, utility := v, result := f, load := byteAt a.data 5 ++ byteAt a.data 4,
              floorAck := byteAt a.data 6, supAck := byteAt a.data 7 }))) ∧
    ((byteAt a.data 0 ≠ byteOf c.val ∨ 5 < (byteAt a.data 1).toNat ∨ 1 < (byteAt a.data 2).toNat ∨
        1 < (byteAt a.data 3).toNat) →
      exec .cabinetStatus s = .next (s.refusedAtGrant s.tables a .shape none))

/-- A measurement of a string the cabinet lists is granted; one that repeats the last sequence lands without a take
(R109, R110); one of a RETIRED string is refused STATE. One with another string number, a mode that is not listed or an
interval outside 1-3600 s is refused SHAPE first, the string RETIRED or not (R109 (1) to (3)). -/
def Obligations.MeasurementIsGrantedOnce : Prop :=
  ∀ (s : State) (a : Access) (c : Cab) (n : Str),
    s.Writes a .measure (32 * n.val) 32 → s.FromCabinet a c → (s.tables.stringsOf c).contains n = true →
    checkHolds a.data = true →
    let interval := word16At a.data 4
    (∀ m : Fin 6, byteAt a.data 0 = byteOf n.val → byteAt a.data 2 = byteOf m.val →
      1 ≤ interval.toNat → interval.toNat ≤ 3600 →
      let mode : MeasMode :=
        match m with
        | 0 => .float | 1 => .discharge | 2 => .recharge | 3 => .testDischarge | 4 => .testHold | 5 => .opened
      let r : MeasRec :=
        { seq := byteAt a.data 1, mode, interval, temperature := word16At a.data 10, chargeOut := word32At a.data 12,
          lowBlock := word16At a.data 16 }
      ((s.tables.str n).age ≠ .retired →
        exec .measurement s =
          .next (s.inFlightWrite s.tables a
            (if (s.tables.str n).lastSeq = some r.seq then .nothing else .measure n r))) ∧
      ((s.tables.str n).age = .retired →
        exec .measurement s = .next (s.refusedAtGrant s.tables a .state (some .retired)))) ∧
    ((byteAt a.data 0 ≠ byteOf n.val ∨ 5 < (byteAt a.data 2).toNat ∨ interval = 0 ∨ 3600 < interval.toNat) →
      exec .measurement s = .next (s.refusedAtGrant s.tables a .shape none))

/-- The four CTRL fields (R63 to R66): which values are granted, and as what.

R64 (1) to (4): the distance of a written index from the oldest unconsumed position. -/
def Obligations.ControlFieldsAreGrantedByTheirValues : Prop :=
  (∀ (s : State) (a : Access), a.port = .sup →
     (s.Writes a .ctrl 0 2 → ∀ h, s.tables.writer.head = some h →
       match h.distance (word16At a.data 0).toNat with
       | some d => exec .consumedJournalIndex s = .next (s.inFlightWrite s.tables a (.consumed (byteAt a.data 0) d))
       | none => exec .consumedJournalIndex s = .next (s.refusedAtGrant s.tables a .shape none)) ∧
     (s.Writes a .ctrl 4 4 →
       exec .clockSet s = .next (s.inFlightWrite s.tables a (.clockSet (word32At a.data 0)))) ∧
     (s.Writes a .ctrl 8 1 →
       exec .flushRequest s =
         .next (if byteAt a.data 0 = 1 then s.inFlightWrite s.tables a .flush
           else s.refusedAtGrant s.tables a .shape none)) ∧
     (s.Writes a .ctrl 9 1 →
       exec .faultClear s =
         .next (if byteAt a.data 0 = 1 then s.inFlightWrite s.tables a .faultClear
           else s.refusedAtGrant s.tables a .shape none))) ∧
  (∀ (h : JHead) (v : Nat), h.unconsumed ≤ 256 →
     let oldest := (h.nextPos.toNat + 256 - h.unconsumed) % 256
     let d := if h.unconsumed = 256 ∧ v = oldest then 256 else (v + 256 - oldest) % 256
     h.distance v = if 255 < v ∨ h.unconsumed < d then none else some d)

/-! ## Floor commands (05 sections 5.2, 5.6, 5.7; 07 sections 7.2, 7.3) -/

/-- A TO_BYPASS that every condition of R90 permits is granted, and its reservation made (R91): the machine XFER_OUT,
the visit's console the holder, the command timer started; no other cabinet's machine or holder changes.

The first condition of R90 that fails refuses a TO_BYPASS with its cause; the refusal and its time are kept (R93)
and the machine stays. -/
def Obligations.ToBypassIsReservedOrRefusedWithItsCause : Prop :=
  (∀ (s : State) (a : Access) (c : Cab) (con : Option Con) (t : Con), s.WritesFloorHalf a c con 1 →
     let u := s.tables
     let g := u.groupOf c
     u.present c = true → (u.cab c).fresh = true → (u.cab c).machine = .normal → u.lastModeIs c .onlineInverter →
     u.bypassVisit c = some t → u.bypassCountOf g < (u.grpCfg g).limit → (u.grp g).underTest = none →
     (u.marginWithout g c).holds = true →
     ∃ w, exec .toBypass s =
         .next (s.inFlightWrite w a (.floor c (byteAt a.data 0) .toBypass .toBypass false)) ∧
       (w.cab c).machine = .xferOut ∧ (w.cab c).holder = some t ∧
       (w.cab c).cmdTimer = some (u.limit (·.commandTime)) ∧ (w.cab c).lastSeq = (u.cab c).lastSeq ∧
       (w.grp g).bypassCount = w.bypassCountOf g ∧ (w.grp g).underTest = none ∧
       (∀ d, d ≠ c → (w.cab d).machine = (u.cab d).machine ∧ (w.cab d).holder = (u.cab d).holder) ∧
       w.visits = u.visits ∧ w.orders = u.orders ∧ w.spent = u.spent ∧ w.strings = u.strings ∧ w.active = u.active) ∧
  (∀ (s : State) (a : Access) (c : Cab) (con : Option Con), s.WritesFloorHalf a c con 1 →
     let u := s.tables
     let g := u.groupOf c
     let online : Bool := match (u.cab c).report with | some r => r.mode == .onlineInverter | none => false
     let cause : Option Cause :=
       if u.present c = false then some .absent
       else if (u.cab c).fresh = false then some .notFresh
       else if (u.cab c).machine ≠ .normal ∨ online = false then some .notNormal
       else if u.bypassVisit c = none then some .noVisit
       else if (u.grpCfg g).limit ≤ u.bypassCountOf g then some .groupLimit
       else if (u.grp g).underTest ≠ none then some .testActive
       else if (u.marginWithout g c).holds = false then some .margin
       else none
     ∀ k, cause = some k →
       ∃ w, exec .toBypass s = .next (s.refusedAtGrant w a .interlock (some k)) ∧
         w.SameButWriter (u.setCab c { u.cab c with refusal := some k, refusalTime := u.clock }))

/-- A TO_ONLINE for a cabinet in BYPASS, UNSANCTIONED or XFER_OUT is granted and its machine is XFER_BACK with its
holder kept (R94, R95); in the other states it is refused NOT_IN_BYPASS, for an absent cabinet ABSENT, and the refusal
and its time are kept (R93). -/
def Obligations.ToOnlineReservesTheReturn : Prop :=
  ∀ (s : State) (a : Access) (c : Cab) (con : Option Con), s.WritesFloorHalf a c con 2 →
    let u := s.tables
    let e := u.cab c
    let refused (k : Cause) : Prop :=
      ∃ w, exec .toOnline s = .next (s.refusedAtGrant w a .interlock (some k)) ∧
        w.SameButWriter (u.setCab c { e with refusal := some k, refusalTime := u.clock })
    (u.present c = false → refused .absent) ∧
    (u.present c = true →
      if e.machine = .bypass ∨ e.machine = .unsanctioned ∨ e.machine = .xferOut then
        ∃ w, exec .toOnline s =
            .next (s.inFlightWrite w a (.floor c (byteAt a.data 0) .toOnline (.toOnline e.machine e.holder) false)) ∧
          (w.cab c).machine = .xferBack ∧ (w.cab c).holder = e.holder ∧
          ((u.grp (u.groupOf c)).underTest = none → (w.cab c).cmdTimer = some (u.limit (·.commandTime))) ∧
          (∀ d, d ≠ c → (w.cab d).machine = (u.cab d).machine ∧ (w.cab d).holder = (u.cab d).holder) ∧
          w.visits = u.visits ∧ w.orders = u.orders ∧ w.spent = u.spent ∧ w.active = u.active
      else refused .notInBypass)

/-- A TEST_START that every condition of R128 permits is granted and its reservation made (R129): the string under test
of its group, its test fields cleared with the writer as starter, both timers started. The string is REQUESTED unless
the re-evaluation this brings finds the group's suspend condition true (R136).

The first condition of R128 that fails refuses a TEST_START: SHAPE for an argument above 3, INTERLOCK with its cause for
the others, and then the refusal and its time are kept (R93) and nothing else changes. -/
def Obligations.PermittedTestStartReservesTheTest : Prop :=
  (∀ (s : State) (a : Access) (c : Cab) (con : Option Con) (p : Pos) (n : Str), s.WritesFloorHalf a c con 3 →
     let u := s.tables
     let g := u.groupOf c
     byteAt a.data 2 = byteOf p.val → u.stringAt c p = some n → u.owner n = some c →
     (∀ t, con = some t → hasBit (u.vis t).perms 1 = true) → (u.str n).age ≠ .retired → (u.cab c).fresh = true →
     (u.cab c).machine = .normal → u.lastModeIs c .onlineInverter →
     (∀ x ∈ u.members g, (u.cab x).machine = .normal) → (u.grp g).underTest = none →
     (u.grp g).state ≠ .utilityLoss → (u.marginUnusable g c n).holds = true →
     ∃ w, exec .testStart s =
         .next (s.inFlightWrite w a
           (.floor c (byteAt a.data 0) (.testStart p) (.testStart n (u.str n).test) false)) ∧
       (w.grp g).underTest = some n ∧ (w.grp g).testTimer = some (60 * u.limit (·.testMinutes)) ∧
       (w.cab c).cmdTimer = some (u.limit (·.commandTime)) ∧
       (w.str n).test.starter = (match con with | some t => .console t | none => .sup) ∧
       (w.str n).test.charge = 0 ∧ (w.str n).test.suspensions = 0 ∧ (w.str n).test.awaitFloor = none ∧
       (w.suspendCondition g = false →
         (w.str n).test =
           { state := .requested, charge := 0, suspensions := 0
             starter := (match con with | some t => .console t | none => .sup)
             result := .none, cause := .none, awaitFloor := none, awaitSup := none }) ∧
       (∀ d, (w.cab d).machine = (u.cab d).machine ∧ (w.cab d).holder = (u.cab d).holder) ∧
       w.visits = u.visits ∧ w.orders = u.orders ∧ w.spent = u.spent ∧ w.active = u.active) ∧
  (∀ (s : State) (a : Access) (c : Cab) (con : Option Con), s.WritesFloorHalf a c con 3 →
     let u := s.tables
     let g := u.groupOf c
     let refused (k : Cause) : Prop :=
       ∃ w, exec .testStart s = .next (s.refusedAtGrant w a .interlock (some k)) ∧
         w.SameButWriter (u.setCab c { u.cab c with refusal := some k, refusalTime := u.clock })
     (4 ≤ (byteAt a.data 2).toNat → exec .testStart s = .next (s.refusedAtGrant u a .shape none)) ∧
     ∀ p : Pos, byteAt a.data 2 = byteOf p.val →
       (u.stringAt c p = none → refused .absent) ∧
       ∀ n, u.stringAt c p = some n →
         let online : Bool := match (u.cab c).report with | some r => r.mode == .onlineInverter | none => false
         let cause : Option Cause :=
           if (match con with | some t => hasBit (u.vis t).perms 1 | none => true) = false then some .noPermission
           else if (u.str n).age = .retired then some .retired
           else if (u.cab c).fresh = false then some .notFresh
           else if (u.cab c).machine ≠ .normal ∨ online = false then some .notNormal
           else if ∃ x ∈ u.members g, (u.cab x).machine ≠ .normal then some .groupBusy
           else if (u.grp g).underTest ≠ none then some .testActive
           else if (u.grp g).state = .utilityLoss then some .utilityLoss
           else if (u.marginUnusable g c n).holds = false then some .margin
           else none
         ∀ k, cause = some k → refused k)

/-- A TEST_STOP for a listed position is granted (R130): a live test becomes STOPPING with result ABORTED, cause STOPPED,
awaiting this sequence alone; a STOPPING one awaits it too; an IDLE string is left as it is. The command timer
starts.

A TEST_STOP with an argument above 3 is refused SHAPE; one for a position with no string (an absent cabinet lists none)
is refused INTERLOCK with cause ABSENT, kept with its time (R93). -/
def Obligations.TestStopStopsALiveTest : Prop :=
  (∀ (s : State) (a : Access) (c : Cab) (con : Option Con) (p : Pos) (n : Str), s.WritesFloorHalf a c con 4 →
     let u := s.tables
     byteAt a.data 2 = byteOf p.val → u.stringAt c p = some n →
     let t := (u.str n).test
     let seq := byteAt a.data 0
     let stopped : TestFields :=
       if t.state.live = true then
         { t with state := .stopping, result := .aborted, cause := .stopped, awaitFloor := some seq, awaitSup := none }
       else if t.state = .stopping then { t with awaitFloor := some seq }
       else t
     let undo : FloorUndo :=
       if t.state.live = true then .stopLive n t (u.cab c).supAwaited
       else if t.state = .stopping then .stopAdded n t.awaitFloor
       else .stopIdle
     let entry : CabEntry :=
       { u.cab c with
         cmdTimer := some (u.limit (·.commandTime))
         supAwaited := if t.state.live = true then false else (u.cab c).supAwaited }
     ∃ w, exec .testStop s = .next (s.inFlightWrite w a (.floor c seq (.testStop p) undo false)) ∧
       w.SameButWriter ((u.setTest n stopped).setCab c entry)) ∧
  (∀ (s : State) (a : Access) (c : Cab) (con : Option Con), s.WritesFloorHalf a c con 4 →
     let u := s.tables
     (4 ≤ (byteAt a.data 2).toNat → exec .testStop s = .next (s.refusedAtGrant u a .shape none)) ∧
     ∀ p : Pos, byteAt a.data 2 = byteOf p.val → u.stringAt c p = none →
       ∃ w, exec .testStop s = .next (s.refusedAtGrant w a .interlock (some .absent)) ∧
         w.SameButWriter (u.setCab c { u.cab c with refusal := some .absent, refusalTime := u.clock }))

/-! ## Visit requests and work orders (08 sections 8.2 to 8.4, 8.6, 8.8) -/

/-- An OPEN that every condition of R150 permits is granted and its reservation made (R151).

A request whose action is none of the four or whose sequence is not the next (R149 (1), (2)), and an OPEN with order
number or badge 0 (R149 (3)), are refused SHAPE. The first condition of R150 that fails refuses an OPEN with its reason
and cause; where two slots hold the number OFFERED, which only recall can bring, the lowest is found: the model's choice
(notes/assumptions/37.md). A refusal sets the console's last result, and nothing else changes. -/
def Obligations.PermittedOpenReservesTheVisit : Prop :=
  (∀ (s : State) (a : Access) (t : Con) (n : Slot), s.WritesRequest a t 1 →
     let u := s.tables
     let o := u.ord n
     let number := word32At a.data 4
     let badge := word32At a.data 8
     number ≠ 0 → badge ≠ 0 → (u.vis t).state.isOpen = false → o.state = .offered → o.number = number →
     (∀ m, m ≠ n → ¬ ((u.ord m).state = .offered ∧ (u.ord m).number = number)) → u.synced = true →
     o.windowStart.toNat ≤ u.clock.toNat → u.clock.toNat < o.windowEnd.toNat →
     (∀ x, (u.vis x).state.isOpen = true → (u.vis x).badge ≠ badge ∧ (u.vis x).scope &&& o.scope = 0) →
     ∃ w, exec .visitOpen s =
         .next (s.inFlightWrite w a (.visitOpen t (byteAt a.data 0) n (u.vis t))) ∧
       w.SameButWriter
         ((u.setVis t
           { u.vis t with
             state := .opened, order := number, badge, scope := o.scope, perms := o.perms, reason := .none,
             openTime := u.clock, activity := u.clock, warnTimer := some (u.limit (·.idleWarn)),
             endTimer := some (u.limit (·.idleEnd)), durTimer := some (60 * o.maxMinutes.toNat) }).setOrd n
           { o with state := .inUse, bound := some t })) ∧
  (∀ (s : State) (a : Access) (t : Con) (i : Instr) (r : Row), s.Writes a .visit (32 * t.val) 32 → s.FromConsole a t →
     checkHolds a.data = true → (i, r) ∈ grantCommands → (s.tables.rowsOf a).contains r = true →
     let u := s.tables
     let code := (byteAt a.data 1).toNat
     (code < 1 ∨ 4 < code ∨ seqPasses (u.vis t).lastReq (byteAt a.data 0) = false) →
     ∃ w, exec i s = .next (s.refusedAtGrant w a .shape none) ∧
       w.SameButWriter (u.setVis t { u.vis t with lastResult := some ⟨2, 6, 0⟩ })) ∧
  (∀ (s : State) (a : Access) (t : Con), s.WritesRequest a t 1 →
     let u := s.tables
     let number := word32At a.data 4
     let badge := word32At a.data 8
     let refused (k : Reason) (d : Option Cause) (detail : Byte) : Prop :=
       ∃ w, exec .visitOpen s = .next (s.refusedAtGrant w a k d) ∧
         w.SameButWriter (u.setVis t { u.vis t with lastResult := some ⟨2, k.code, detail⟩ })
     let holds (st : OrderState) (n : Slot) : Prop := (u.ord n).state = st ∧ (u.ord n).number = number
     ((number = 0 ∨ badge = 0) → refused .shape none 0) ∧
     (number ≠ 0 → badge ≠ 0 →
       if (u.vis t).state.isOpen = true then refused .state (some .visitActive) 0x16
       else
         ((∀ n, ¬ holds .offered n) →
           if ∃ n, holds .inUse n then refused .state (some .orderInUse) 0x14
           else if number ∈ u.spent then refused .state (some .orderSpent) 0x13
           else refused .state (some .notOffered) 0x12) ∧
         ∀ n, holds .offered n → (∀ m, m < n → ¬ holds .offered m) →
           let o := u.ord n
           (u.synced = false → refused .state (some .clock) 0x10) ∧
           (u.synced = true →
             (¬ (o.windowStart.toNat ≤ u.clock.toNat ∧ u.clock.toNat < o.windowEnd.toNat) →
               refused .state (some .window) 0x11) ∧
             (o.windowStart.toNat ≤ u.clock.toNat → u.clock.toNat < o.windowEnd.toNat →
               ((∃ x, (u.vis x).state.isOpen = true ∧ (u.vis x).badge = badge) →
                 refused .state (some .badgeInUse) 0x15) ∧
               ((∀ x, (u.vis x).state.isOpen = true → (u.vis x).badge ≠ badge) →
                 (∃ x, (u.vis x).state.isOpen = true ∧ (u.vis x).scope &&& o.scope ≠ 0) →
                 refused .scope (some .scopeOverlap) 0x0F)))))

/-- CLOSE, REPLACE and RETIRE are granted under the conditions of R155, R158 and R121; the tables wait for the take.

The first of these conditions that fails refuses the request with its reason and cause, a string number above 127 refuses
it SHAPE (R149 (3)), and the console's last result is set; nothing else changes. -/
def Obligations.PermittedVisitWorkIsGranted : Prop :=
  (∀ (s : State) (a : Access) (t : Con),
     let u := s.tables
     let v := u.vis t
     let seq := byteAt a.data 0
     v.state.isOpen = true →
     (s.WritesRequest a t 2 → (∀ c, (u.cab c).holder ≠ some t) →
       exec .visitClose s = .next (s.inFlightWrite u a (.visitClose t seq))) ∧
     ∀ (n : Str) (c : Cab), byteAt a.data 2 = byteOf n.val → u.owner n = some c → hasBit v.scope c.val = true →
       (u.cab c).machine = .bypass → (u.cab c).holder = some t → (u.str n).test.state = .idle →
       (s.WritesRequest a t 3 → hasBit v.perms 2 = true →
         let capacity := word16At a.data 12
         capacity = 0 ∨ 10 ≤ capacity.toNat ∧ capacity.toNat ≤ 3000 →
         exec .visitReplace s = .next (s.inFlightWrite u a (.replace t seq n capacity))) ∧
       (s.WritesRequest a t 4 → hasBit v.perms 3 = true →
         (u.str n).age = .healthy ∨ (u.str n).age = .watch ∨ (u.str n).age = .due →
         exec .visitRetire s = .next (s.inFlightWrite u a (.retire t seq n)))) ∧
  (∀ (s : State) (a : Access) (t : Con),
     let u := s.tables
     let v := u.vis t
     let refused (i : Instr) (k : Reason) (d : Option Cause) : Prop :=
       ∃ w, exec i s = .next (s.refusedAtGrant w a k d) ∧
         w.SameButWriter
           (u.setVis t { v with lastResult := some ⟨2, k.code, match d with | some x => x.code | none => 0⟩ })
     (s.WritesRequest a t 2 →
       (v.state.isOpen = false → refused .visitClose .state (some .noVisit)) ∧
       (v.state.isOpen = true → (∃ c, (u.cab c).holder = some t) →
         refused .visitClose .state (some .cabinetHeld))) ∧
     ∀ (i : Instr) (perm : Nat), (s.WritesRequest a t 3 ∧ i = .visitReplace ∧ perm = 2 ∨
         s.WritesRequest a t 4 ∧ i = .visitRetire ∧ perm = 3) →
       (128 ≤ (byteAt a.data 2).toNat → refused i .shape none) ∧
       ∀ n : Str, byteAt a.data 2 = byteOf n.val →
         let own (f : Cab → Bool) : Bool := match u.owner n with | some c => f c | none => false
         let capacity := (word16At a.data 12).toNat
         let denial : Option (Reason × Option Cause) :=
           if v.state.isOpen = false then some (.state, some .noVisit)
           else if hasBit v.perms perm = false then some (.interlock, some .noPermission)
           else if u.owner n = none then some (.interlock, some .absent)
           else if own (fun c => hasBit v.scope c.val) = false then some (.scope, some .outOfScope)
           else if own (fun c => (u.cab c).machine == .bypass && (u.cab c).holder == some t) = false then
             some (.interlock, some .notInBypass)
           else if (u.str n).test.state ≠ .idle then some (.interlock, some .testActive)
           else if i = .visitReplace ∧ capacity ≠ 0 ∧ (capacity < 10 ∨ 3000 < capacity) then some (.shape, none)
           else if i = .visitRetire ∧ ((u.str n).age = .unverified ∨ (u.str n).age = .retired) then
             some (.state, some .retired)
           else none
         ∀ k d, denial = some (k, d) → refused i k d)

/-- OFFER, WITHDRAW and CLEAR are granted under the conditions of R144 to R146; the tables wait for the take.

The first of these conditions that fails refuses the request, by whichever command the write is granted under: SHAPE for
a field of R144, BUSY for a slot IN_USE, STATE with its cause for a number that is spent, in use elsewhere, or not offered
here; no entry changes. -/
def Obligations.PermittedOrderRequestsAreGranted : Prop :=
  (∀ (s : State) (a : Access) (n : Slot), a.port = .sup → s.Writes a .workord (32 * n.val) 32 →
     checkHolds a.data = true → (byteAt a.data 1).toNat < 16 →
     let u := s.tables
     let o := u.ord n
     let terms := parseTerms a.data
     let request := byteAt a.data 0
     (request = 1 → terms.number ≠ 0 → 1 ≤ terms.maxMinutes.toNat → terms.maxMinutes.toNat ≤ 720 → o.state ≠ .inUse →
       terms.number ∉ u.spent →
       (∀ m, m ≠ n → (u.ord m).number = terms.number → (u.ord m).state ≠ .offered ∧ (u.ord m).state ≠ .inUse) →
       exec .orderOffer s = .next (s.inFlightWrite u a (.offer n terms))) ∧
     (request = 2 → terms.number ≠ 0 → (o.state = .offered ∨ o.state = .inUse) → o.number = terms.number →
       exec .orderWithdraw s = .next (s.inFlightWrite u a (.withdraw n))) ∧
     (request = 3 →
       exec .orderClear s =
         .next (if o.state = .inUse then s.refusedAtGrant u a .busy none else s.inFlightWrite u a (.clear n)))) ∧
  (∀ (s : State) (a : Access) (n : Slot) (i : Instr) (r : Row), a.port = .sup → s.Writes a .workord (32 * n.val) 32 →
     checkHolds a.data = true → (i, r) ∈ grantCommands → (s.tables.rowsOf a).contains r = true →
     let u := s.tables
     let o := u.ord n
     let request := (byteAt a.data 0).toNat
     let number := word32At a.data 4
     let minutes := (word16At a.data 2).toNat
     let elsewhere : Prop :=
       ∃ m, m ≠ n ∧ (u.ord m).number = number ∧ ((u.ord m).state = .offered ∨ (u.ord m).state = .inUse)
     let refused (k : Reason) (d : Option Cause) : Prop := exec i s = .next (s.refusedAtGrant u a k d)
     let fields : Prop :=
       1 ≤ request ∧ request ≤ 3 ∧ (byteAt a.data 1).toNat < 16 ∧ (request ≠ 3 → number ≠ 0) ∧
         (request = 1 → 1 ≤ minutes ∧ minutes ≤ 720)
     (¬ fields → refused .shape none) ∧
     (fields → request = 1 →
       (o.state = .inUse → refused .busy none) ∧
       (o.state ≠ .inUse → number ∈ u.spent → refused .state (some .orderSpent)) ∧
       (o.state ≠ .inUse → number ∉ u.spent → elsewhere → refused .state (some .orderInUse))) ∧
     (fields → request = 2 →
       (o.number ≠ number ∨ o.state ≠ .offered ∧ o.state ≠ .inUse) → refused .state (some .notOffered)) ∧
     (fields → request = 3 → o.state = .inUse → refused .busy none))

/-! ## Completions of port accesses (01 sections 1.3, 1.4; 02 section 2.9) -/

/-- A write answered OK: its bytes hold the written values and no other byte changes; the take is made before the reply
DONE with the access length leaves (R12 (3), R14). A plain write of several runs: an operation answered OK has landed, and
the next is issued after it (R14, R15 (3)); when the last is answered OK the reply is DONE, or PARTIAL with the permitted
count where a byte is denied (R34), and the permitted bytes alone have landed.

The takes, but for marks of the record writer: a floor half becomes the last landed command, outstanding unless its timer
has expired in the gap (R86), with XFER_GRANTED while the machine is XFER_OUT (R92) and TEST_STARTED while the string is
REQUESTED (R129); a visit request keeps its sequence and the result DONE (R149), an OPEN with VISIT_OPENED while the visit
is open (R151), a CLOSE with the visit's end (R155, R157); OFFER, WITHDRAW and CLEAR change the slot, and WITHDRAW of an
order IN_USE ends its visit REVOKED (R145, R146); a write of the config window updates the generation copy, and starts an
apply when it covers both bytes of the apply field and they equal the copy (R41, R47). -/
def Obligations.CompletedWriteLandsAndIsTaken : Prop :=
  (∀ (s : State) (f : InFlight), s.grant = some (.port f) → s.mem.wf = true → f.acc.kind = .write → f.acc.Shaped →
     f.ops = [.write f.acc.addr f.acc.data] → f.permitted = List.replicate f.acc.len true →
     f.acc.addr + f.acc.len ≤ 0x100000 → s.tables.mode ≠ .halting →
     ∃ m, exec (.portAccessComplete .ok) s =
         .next (s.replied m (s.tables.takeAccess f.acc f.take) f.acc (.done f.acc.len [])) ∧
       ∀ x, m.look x =
         if f.acc.addr ≤ x ∧ x < f.acc.addr + f.acc.len then f.acc.data[x - f.acc.addr]? else s.mem.look x) ∧
  (∀ (m : Memory) (a : Nat) (bytes : List Byte) (rest : List MemOp),
     m.performAll (.write a bytes :: rest) = (m.putBytes a bytes).performAll rest) ∧
  (∀ (s : State) (f : InFlight), s.grant = some (.port f) → s.mem.wf = true → f.acc.kind = .write → f.acc.Shaped →
     f.permitted.length = f.acc.len → f.ops = runsFrom f.acc.addr [] (f.permitted.zip f.acc.data) →
     f.acc.addr + f.acc.len ≤ 0x100000 → f.take = .nothing → s.tables.mode ≠ .halting →
     ∃ m, exec (.portAccessComplete .ok) s =
         .next (s.replied m s.tables f.acc
           (if f.permitted.all id then .done f.acc.len [] else .partialDone (f.permitted.count true) [])) ∧
       ∀ x, m.look x =
         if f.acc.addr ≤ x ∧ f.permitted[x - f.acc.addr]? = some true then f.acc.data[x - f.acc.addr]?
         else s.mem.look x) ∧
  (∀ (u : Tables) (a : Access) (c : Cab) (q : Byte) (cmd : FloorCmd) (undo : FloorUndo) (expired : Bool),
     ∃ w, (u.setCab c { u.cab c with lastSeq := some q, lastCmd := some cmd, outstanding := !expired }).OnlyMarked w ∧
       u.takeAccess a (.floor c q cmd undo expired) =
         match cmd with
         | .toBypass =>
           if (u.cab c).machine = .xferOut then
             w.journal .xferGranted .notice (byteOf c.val)
               (match (u.cab c).holder with | some t => byteOf t.val | none => 0xFF) (q.zeroExtend 32)
           else w
         | .testStart p =>
           match u.stringAt c p with
           | some n =>
             if (u.str n).test.state = .requested then
               w.journal .testStarted .notice (byteOf n.val) (u.str n).test.starter.code (q.zeroExtend 32)
             else w
           | none => w
         | .toOnline | .testStop _ => w) ∧
  (∀ (u : Tables) (a : Access) (t : Con) (q : Byte),
     let v := u.vis t
     let taken := u.setVis t { v with lastReq := some q, lastResult := some ⟨0, 0, 0⟩ }
     (∀ n saved, ∃ w, taken.OnlyMarked w ∧
       u.takeAccess a (.visitOpen t q n saved) =
         if v.state.isOpen = true then w.journal .visitOpened .notice (byteOf t.val) v.perms v.order else w) ∧
     (v.state.isOpen = true →
       ∃ w, (taken.visitOver t .closed .spent).OnlyMarked w ∧
         u.takeAccess a (.visitClose t q) = w.journal .visitEnded .notice (byteOf t.val) 0x01 v.order) ∧
     (v.state.isOpen = false → taken.OnlyMarked (u.takeAccess a (.visitClose t q)))) ∧
  (∀ (u : Tables) (a : Access) (n : Slot),
     let o := u.ord n
     (∀ k : OrderTerms,
       (u.setOrd n
         { state := .offered, number := k.number, scope := k.scope, perms := k.perms, windowStart := k.windowStart,
           windowEnd := k.windowEnd, maxMinutes := k.maxMinutes, bound := none }).OnlyMarked
         (u.takeAccess a (.offer n k))) ∧
     (o.state = .offered ∨ o.state = .spent →
       (u.setOrd n { o with state := .withdrawn }).OnlyMarked (u.takeAccess a (.withdraw n))) ∧
     (o.state = .empty ∨ o.state = .withdrawn → u.takeAccess a (.withdraw n) = u) ∧
     (∀ t, o.state = .inUse → o.bound = some t → (u.vis t).state.isOpen = true →
       ∃ w, (u.visitOver t .revoked .withdrawn).OnlyMarked w ∧
         u.takeAccess a (.withdraw n) = w.journal .visitEnded .warning (byteOf t.val) 0x05 (u.vis t).order) ∧
     (u.setOrd n .reset).OnlyMarked (u.takeAccess a (.clear n))) ∧
  ∀ (u : Tables) (a : Access),
    let written (x : Nat) : Option Byte := if a.addr ≤ x ∧ x < a.addr + a.len then a.data[x - a.addr]? else none
    let low := (written 2).or u.genLow
    let high := (written 3).or u.genHigh
    let starts : Prop := ∃ l h, written 4 = some l ∧ written 5 = some h ∧ low = some l ∧ high = some h
    let reading : Apply := { todo := [.block 0, .block 1, .block 2, .block 3], block := [], commands := [], orders := [] }
    (starts → u.takeAccess a .config = { u with genLow := low, genHigh := high, apply := some reading }) ∧
    (¬ starts → u.takeAccess a .config = { u with genLow := low, genHigh := high })

/-- A read answered OK of definite bytes: the reply carries them, with 00h in each denied position, DONE or PARTIAL
with the permitted count (R11, R33 (2), R34); memory and tables are as they were.

A read answered OK of any bytes: the reply carries what memory gave; the tables are as they were. A read answered FAULT is
REFUSED MEMFAULT, and memory and tables are as they were (R15). What memory gives: a definite byte as it stands, any value
for a position a faulted write has left undefined; reading changes no byte (R14).

The bytes of a reply (Table 2.12(2), R45): transaction, status, reason, detail, count, data, frame check; and the codes of
the reasons and of the causes (Table 2.12(3)). -/
def Obligations.CompletedReadRepliesWithMemory : Prop :=
  (∀ (s : State) (f : InFlight) (data : List Byte), s.grant = some (.port f) → f.acc.kind = .read → f.acc.Shaped →
     f.ops = [.read f.acc.addr f.acc.len] → f.take = .nothing → f.permitted.length = f.acc.len →
     f.acc.addr + f.acc.len ≤ 0x100000 → s.tables.mode ≠ .halting → data.length = f.acc.len →
     (∀ i, i < f.acc.len → s.mem.look (f.acc.addr + i) = data[i]?) →
     let shown := List.zipWith (fun (p : Bool) b => if p then b else (0 : Byte)) f.permitted data
     exec (.portAccessComplete .ok) s =
       .next (s.replied s.mem s.tables f.acc
         (if f.permitted.all id then .done f.acc.len shown else .partialDone (f.permitted.count true) shown))) ∧
  (∀ (s : State) (f : InFlight), s.grant = some (.port f) → f.acc.kind = .read → f.acc.Shaped →
     f.ops = [.read f.acc.addr f.acc.len] → f.take = .nothing → f.permitted.length = f.acc.len →
     f.acc.addr + f.acc.len ≤ 0x100000 → s.tables.mode ≠ .halting →
     let given := s.mem.takeBytes f.acc.addr f.acc.len
     let shown := List.zipWith (fun (p : Bool) b => if p then b else (0 : Byte)) f.permitted given.1
     exec (.portAccessComplete .ok) s =
         .next (s.replied given.2 s.tables f.acc
           (if f.permitted.all id then .done f.acc.len shown else .partialDone (f.permitted.count true) shown)) ∧
       ∀ k, exec (.portAccessComplete (.fault k)) s =
         .next (s.replied s.mem s.tables f.acc (.refused .memfault none))) ∧
  (∀ (m : Memory) (addr n : Nat),
     (m.takeBytes addr n).1.length = n ∧ (∀ x, (m.takeBytes addr n).2.look x = m.look x) ∧
       (∀ i b, i < n → m.look (addr + i) = some b → (m.takeBytes addr n).1[i]? = some b) ∧
       ((∀ i, i < n → m.look (addr + i) ≠ none) → (m.takeBytes addr n).2 = m)) ∧
  (∀ (txn : BitVec 4) (n : Nat) (data : List Byte) (k : Reason) (d : Cause),
     let sent (status reason detail : Byte) (count : Nat) (data : List Byte) : List Byte :=
       let body := [txn.zeroExtend 8, status, reason, detail, BitVec.ofNat 8 count, BitVec.ofNat 8 (count / 256)] ++ data
       body ++ [(crc body).extractLsb' 0 8, (crc body).extractLsb' 8 8]
     (Reply.done n data).frame txn = sent 0 0 0 n data ∧ (Reply.partialDone n data).frame txn = sent 1 3 0 n data ∧
       (Reply.refused k none).frame txn = sent 2 k.code 0 0 [] ∧
       (Reply.refused k (some d)).frame txn = sent 2 k.code d.code 0 []) ∧
  [Reason.nomap, .range, .denied, .key, .locked, .shape, .busy, .interlock, .scope, .state, .memfault].map Reason.code =
    [1, 2, 3, 4, 5, 6, 7, 8, 9, 0xA, 0xB] ∧
  [Cause.absent, .notFresh, .notNormal, .noVisit, .groupLimit, .testActive, .margin, .groupBusy, .utilityLoss,
      .notInBypass, .retired, .noPermission, .outOfScope, .scopeOverlap, .clock, .window, .notOffered, .orderSpent,
      .orderInUse, .badgeInUse, .visitActive, .cabinetHeld].map Cause.code =
    [1, 2, 3, 4, 5, 6, 7, 8, 9, 0xA, 0xB, 0xC, 0xE, 0xF, 0x10, 0x11, 0x12, 0x13, 0x14, 0x15, 0x16, 0x17]

/-- A write answered FAULT: REFUSED MEMFAULT, no take, the addressed bytes undefined and no others changed (R14, R15). Of a
plain write of several runs, those answered OK before the FAULT stay landed, the faulted run's bytes alone are undefined, and
the later runs are not issued (R15 (3)). Which run is answered FAULT is the operand's, as notes/assumptions/15.md has it.

A FAULT on a TO_BYPASS undoes its reservation: the machine is NORMAL with no holder, the last landed sequence stays
(R96); on a TO_ONLINE the machine is what it was before the grant. With no string of the group under test, which the undo
could issue a command to, the command timer is stopped, and started afresh for XFER_OUT.

On a TEST_START the string is IDLE with the test fields of before the grant, both timers stopped, no string under test, no
supervisor half awaited (R129). On a TEST_STOP that stopped a live test, the fields and the awaited half are those of before
the grant while the string still is STOPPING with this floor sequence awaited; the command timer stops, and starts anew for
a state that awaits the cabinet; an added sequence is taken back (R130). On an OPEN the visit, while it is still open, is
what it was and the order OFFERED (R151); on every visit request the last result is REFUSED MEMFAULT (R149). A spoiled byte
of the generation leaves its copy unknown (R41). -/
def Obligations.FaultedWriteIsNotTakenAndIsUndone : Prop :=
  (∀ (s : State) (f : InFlight) (k : Nat), s.grant = some (.port f) → s.mem.wf = true → f.acc.kind = .write →
     f.acc.Shaped → f.ops = [.write f.acc.addr f.acc.data] → f.acc.addr + f.acc.len ≤ 0x100000 →
     ∃ m u, exec (.portAccessComplete (.fault k)) s = .next (s.replied m u f.acc (.refused .memfault none)) ∧
       (u.cabs = s.tables.cabs ∨ ∃ c q cmd undo e, f.take = .floor c q cmd undo e) ∧
       (s.tables.mode ≠ .halting → f.take.answersFault = false → u = s.tables) ∧
       ∀ x, m.look x = if f.acc.addr ≤ x ∧ x < f.acc.addr + f.acc.len then none else s.mem.look x) ∧
  (∀ (s : State) (f : InFlight) (k : Nat) (before after : List MemOp) (a : Nat) (bytes : List Byte),
     s.grant = some (.port f) → s.mem.wf = true → f.acc.kind = .write → f.acc.Shaped →
     f.permitted.length = f.acc.len → f.ops = runsFrom f.acc.addr [] (f.permitted.zip f.acc.data) →
     f.acc.addr + f.acc.len ≤ 0x100000 → f.take = .nothing → s.tables.mode ≠ .halting →
     f.ops = before ++ .write a bytes :: after → (before.length = k ∨ before.length ≤ k ∧ after = []) →
     ∃ m, exec (.portAccessComplete (.fault k)) s = .next (s.replied m s.tables f.acc (.refused .memfault none)) ∧
       ∀ x, m.look x =
         if a ≤ x ∧ x < a + bytes.length then none
         else if f.acc.addr ≤ x ∧ x < a ∧ f.permitted[x - f.acc.addr]? = some true then f.acc.data[x - f.acc.addr]?
         else s.mem.look x) ∧
  (∀ (s : State) (f : InFlight) (k : Nat) (c : Cab) (q : Byte) (e : Bool), s.grant = some (.port f) →
     f.ops.all MemOp.inRange = true →
     let u := s.tables
     (f.take = .floor c q .toBypass .toBypass e →
       ∃ m w, exec (.portAccessComplete (.fault k)) s = .next (s.replied m w f.acc (.refused .memfault none)) ∧
         (w.cab c).machine = .normal ∧ (w.cab c).holder = none ∧ (w.cab c).lastSeq = (u.cab c).lastSeq ∧
         ((u.grp (u.groupOf c)).underTest = none → (w.cab c).cmdTimer = none)) ∧
     ∀ old h, f.take = .floor c q .toOnline (.toOnline old h) e →
       ∃ m w, exec (.portAccessComplete (.fault k)) s = .next (s.replied m w f.acc (.refused .memfault none)) ∧
         (w.cab c).machine = old ∧ (w.cab c).lastSeq = (u.cab c).lastSeq ∧
         ((u.grp (u.groupOf c)).underTest = none →
           (w.cab c).cmdTimer = if old = .xferOut then some (u.limit (·.commandTime)) else none) ∧
         (w.cab c).holder =
           match h with
           | some t => if (u.vis t).state.isOpen = true then some t else none
           | none => none) ∧
  ∀ (s : State) (f : InFlight) (k : Nat), s.grant = some (.port f) → f.ops.all MemOp.inRange = true →
    s.tables.mode ≠ .halting →
    let u := s.tables
    let leaves (holds : Tables → Prop) : Prop :=
      ∃ m w, exec (.portAccessComplete (.fault k)) s = .next (s.replied m w f.acc (.refused .memfault none)) ∧ holds w
    let memfault : VisitResult := ⟨2, 0x0B, 0⟩
    (∀ c p q n old e d, f.take = .floor c q (.testStart p) (.testStart n old) e → u.place n = some (c, d) →
      leaves fun w =>
        (w.str n).test = { old with state := .idle } ∧ (w.cab c).cmdTimer = none ∧ (w.cab c).supAwaited = false ∧
          (w.cab c).lastSeq = (u.cab c).lastSeq ∧ (w.grp (u.groupOf c)).underTest = none ∧
          (w.grp (u.groupOf c)).testTimer = none) ∧
    (∀ c p q n old awaited e, f.take = .floor c q (.testStop p) (.stopLive n old awaited) e →
      let t := (u.str n).test
      let timer : Timer :=
        if old.state = .requested ∨ old.state = .suspendPending ∨ old.state = .resumePending then
          some (u.limit (·.commandTime))
        else none
      leaves fun w => w.SameButWriter
        (if t.state = .stopping ∧ t.awaitFloor = some q then
          (u.setTest n old).setCab c { u.cab c with supAwaited := awaited, cmdTimer := timer }
        else u.setCab c { u.cab c with cmdTimer := none })) ∧
    (∀ c p q n previous e, f.take = .floor c q (.testStop p) (.stopAdded n previous) e →
      let t := (u.str n).test
      let v := u.setCab c { u.cab c with cmdTimer := none }
      leaves fun w => w.SameButWriter
        (if t.awaitFloor = some q then v.setTest n { t with awaitFloor := previous } else v)) ∧
    (∀ c p q e, f.take = .floor c q (.testStop p) .stopIdle e →
      leaves fun w => w = u.setCab c { u.cab c with cmdTimer := none }) ∧
    (∀ t q n old, f.take = .visitOpen t q n old →
      leaves fun w => w.SameButWriter
        (if (u.vis t).state.isOpen = true then
          (u.setVis t
            { old with warnTimer := none, endTimer := none, durTimer := none, lastResult := some memfault }).setOrd n
            { u.ord n with state := .offered, bound := none }
        else u.setVis t { u.vis t with lastResult := some memfault })) ∧
    (∀ t q n x, f.take = .visitClose t q ∨ f.take = .replace t q n x ∨ f.take = .retire t q n →
      leaves fun w => w.SameButWriter (u.setVis t { u.vis t with lastResult := some memfault })) ∧
    (f.take = .config → f.acc.data.length = f.acc.len →
      let covers (x : Nat) : Prop := f.acc.addr ≤ x ∧ x < f.acc.addr + f.acc.len
      leaves fun w =>
        w = { u with
          genLow := if covers 2 then none else u.genLow
          genHigh := if covers 3 then none else u.genHigh })

/-! ## Takes -/

/-- R63, R65, R66: what the takes of a clock set, a flush request and a fault clear leave; a fault clear that clears the
latch leaves ATTN asserted for an unconsumed entry at or above the attention severity alone (R170).

R64: the take of a consumed index of distance `d` removes the `d` oldest entries from the count and the copy, when
no LOST entry is due; the ring position of the next entry does not move; ATTN follows what is left (R170). A severity code
above 03h, which only recall can bring, ranks by its number: the model's choice (notes/assumptions/39.md). -/
def Obligations.ControlTakesActOnClockFlushLatchAndCount : Prop :=
  (∀ (s : State) (f : InFlight), s.grant = some (.port f) → f.ops.all MemOp.inRange = true →
     let u := s.tables
     ∃ t, exec (.portAccessComplete .ok) s = .next t ∧
       (∀ v, f.take = .clockSet v →
         t.tables.clock = v ∧ t.tables.synced = true ∧ t.tables.cabs = u.cabs ∧ t.tables.groups = u.groups ∧
           t.tables.visits = u.visits ∧ t.tables.orders = u.orders) ∧
       (f.take = .flush →
         t.tables.writer.lazySet = [] ∧
           t.tables.writer.urgent.map (·.what) = u.writer.urgent.map (·.what) ++ u.writer.lazySet ∧
           t.tables.writer.flushTimer = some (u.limit (·.flushTime)) ∧ t.tables.clock = u.clock) ∧
       (f.take = .faultClear →
         t.tables.writer.latch = false ∧ t.tables.clock = u.clock ∧
           (u.writer.latch = false → t.tables.writer = u.writer) ∧
           ∀ b, u.writer.latch = true → u.active = some b → u.writer.head ≠ none →
             (t.tables.writer.attn = true ↔
               ∃ e ∈ t.tables.writer.copy, b.attention ≤ e.entry.severity.toNat))) ∧
  (∀ (s : State) (f : InFlight) (v : Byte) (d : Nat) (h : JHead), s.grant = some (.port f) →
     f.ops.all MemOp.inRange = true → f.take = .consumed v d → s.tables.writer.head = some h → h.lost = false →
     ∃ t, exec (.portAccessComplete .ok) s = .next t ∧ t.tables.lastConsumed = some v ∧
       t.tables.writer.head = some { h with unconsumed := h.unconsumed - d } ∧
       t.tables.writer.copy = s.tables.writer.copy.drop d ∧ t.tables.writer.pending = s.tables.writer.pending ∧
       ∀ b, s.tables.active = some b →
         (t.tables.writer.attn = true ↔
           s.tables.writer.latch = true ∨ ∃ e ∈ t.tables.writer.copy, b.attention ≤ e.entry.severity.toNat))

/-- R69: a taken status record sets the report and the load, freshens the cabinet, restarts its stale timer; the other
cabinets' reports are as they were.

Table 5.5(2), R97 to R102: the machine after a taken status record, by the machine before it, the reported mode,
and the command the record acknowledges as DECLINED (R87).

R131, R135: a status record that acknowledges a TEST_START with DECLINED ends the requested test; one that acknowledges an
awaited TEST_STOP, in the floor half or in the supervisor half, returns the STOPPING string to IDLE; one that acknowledges
the awaited TEST_SUSPEND or TEST_RESUME makes the string SUSPENDED or RUNNING. It stays so unless the record's own
re-evaluation finds the suspend condition otherwise (R136). That such a supervisor acknowledgment stops the command timer by
the machine as the same take leaves it is the model's choice where the take moves it (notes/assumptions/48.md).

R106, R137 (2): a machine that leaves NORMAL or LEARNING for UNSANCTIONED or BYPASS stops the group's live test, in whichever
member's string, ABORTED with cause CABINET, unless the re-evaluation that comes before has stopped it (R136); its TEST_STOP
is issued and awaited. -/
def Obligations.StatusTakeFreshensAndMovesTheMachine : Prop :=
  (∀ (s : State) (f : InFlight) (c : Cab) (r : StatusRec), s.grant = some (.port f) →
     f.ops.all MemOp.inRange = true → f.take = .status c r →
     let u := s.tables
     ∃ t, exec (.portAccessComplete .ok) s = .next t ∧
       (t.tables.cab c).report = some ⟨r.mode, r.utility⟩ ∧ (t.tables.cab c).load = r.load ∧
       (t.tables.cab c).fresh = true ∧ (t.tables.cab c).staleTimer = some (u.limit (·.staleTime)) ∧
       (t.tables.cab c).lastSeq = (u.cab c).lastSeq ∧
       (∀ d, d ≠ c → (t.tables.cab d).report = (u.cab d).report ∧ (t.tables.cab d).load = (u.cab d).load ∧
         (t.tables.cab d).fresh = (u.cab d).fresh ∧ (t.tables.cab d).machine = (u.cab d).machine) ∧
       t.tables.visits = u.visits ∧ t.tables.orders = u.orders ∧ t.tables.spent = u.spent ∧
       t.tables.clock = u.clock) ∧
  (∀ (s : State) (f : InFlight) (c : Cab) (r : StatusRec), s.grant = some (.port f) →
     f.ops.all MemOp.inRange = true → f.take = .status c r →
     let e := s.tables.cab c
     let acked : Bool := e.outstanding && decide (e.lastSeq = some r.floorAck)
     let declined : Option FloorCmd := if acked = true ∧ r.result = .declined then e.lastCmd else none
     let out : Xfer × Option Con :=
       match e.machine with
       | .absent => (.absent, e.holder)
       | .learning => if r.mode = .maintBypass then (.bypass, none) else (.normal, none)
       | .normal => if r.mode = .maintBypass then (.unsanctioned, none) else (.normal, e.holder)
       | .xferOut =>
         if r.mode = .maintBypass then (.bypass, e.holder)
         else if declined = some .toBypass then (.normal, none)
         else (.xferOut, e.holder)
       | .bypass => if r.mode = .maintBypass then (.bypass, e.holder) else (.normal, none)
       | .xferBack =>
         if r.mode = .onlineInverter ∨ r.mode = .onBattery then (.normal, none)
         else if declined = some .toOnline then (.bypass, e.holder)
         else (.xferBack, e.holder)
       | .unsanctioned => if r.mode = .maintBypass then (.unsanctioned, e.holder) else (.normal, none)
     ∃ t, exec (.portAccessComplete .ok) s = .next t ∧ (t.tables.cab c).machine = out.1 ∧
       (t.tables.cab c).holder = out.2 ∧
       (t.tables.cab c).outstanding = (e.outstanding && !acked)) ∧
  (∀ (s : State) (f : InFlight) (c : Cab) (r : StatusRec) (n : Str) (p : Pos), s.grant = some (.port f) →
     f.ops.all MemOp.inRange = true → f.take = .status c r →
     let u := s.tables
     let g := u.groupOf c
     let x := (u.str n).test
     u.place n = some (c, p) → (u.grp g).underTest = some n →
     ∃ t, exec (.portAccessComplete .ok) s = .next t ∧
       let y := (t.tables.str n).test
       let ended : Prop :=
         (t.tables.grp g).underTest = none ∧ (t.tables.grp g).testTimer = none ∧ (t.tables.cab c).supAwaited = false
       ((u.cab c).outstanding = true → (u.cab c).lastSeq = some r.floorAck →
         ((u.cab c).lastCmd = some (.testStart p) → r.result = .declined → x.state = .requested →
           y = { x with state := .idle, result := .declined, cause := .none, awaitFloor := none, awaitSup := none } ∧
             ended) ∧
         ((u.cab c).lastCmd = some (.testStop p) → x.state = .stopping → x.awaitFloor = some r.floorAck →
           y = { x with state := .idle, awaitFloor := none, awaitSup := none } ∧ ended)) ∧
       ((u.cab c).outstanding = false → (u.cab c).supAwaited = true → (u.cab c).supSeq = some r.supAck →
         ((u.cab c).supCmd = some (.testSuspend, p) → x.state = .suspendPending →
           (t.tables.cab c).machine = .normal → t.tables.suspendCondition g = true →
           y = { x with state := .suspended } ∧ (t.tables.cab c).supAwaited = false ∧
             (t.tables.cab c).cmdTimer = none) ∧
         ((u.cab c).supCmd = some (.testResume, p) → x.state = .resumePending →
           (t.tables.cab c).machine = .normal → t.tables.suspendCondition g = false →
           y = { x with state := .running } ∧ (t.tables.cab c).supAwaited = false ∧
             (t.tables.cab c).cmdTimer = none) ∧
         ((u.cab c).supCmd = some (.testStop, p) → x.state = .stopping → x.awaitSup = some r.supAck →
           y = { x with state := .idle, awaitFloor := none, awaitSup := none } ∧ ended ∧
             ((t.tables.cab c).machine = .normal ∨ (t.tables.cab c).machine = .unsanctioned →
               (t.tables.cab c).cmdTimer = none)))) ∧
  ∀ (s : State) (f : InFlight) (c d : Cab) (r : StatusRec) (n : Str) (p : Pos), s.grant = some (.port f) →
    f.ops.all MemOp.inRange = true → f.take = .status c r → r.mode = .maintBypass → s.tables.Interlocked →
    let u := s.tables
    let g := u.groupOf c
    let x := (u.str n).test
    let next := nextSeq (u.cab c).supSeq
    u.present c = true → ((u.cab c).machine = .normal ∨ (u.cab c).machine = .learning) →
    u.place n = some (d, p) → u.groupOf d = g → x.state.live = true →
    ¬ ((u.cab c).outstanding = true ∧ (u.cab c).lastSeq = some r.floorAck) →
    (d = c → r.supAck ≠ next ∧ r.supAck ≠ next + 1) →
    ∃ t, exec (.portAccessComplete .ok) s = .next t ∧
      let y := (t.tables.str n).test
      let conditions := t.tables.suspendCondition g
      y.state = .stopping ∧ y.result = .aborted ∧
        y.cause =
          (if conditions = true ∧ x.state = .requested then .conditions
          else if conditions = true ∧ (x.state = .running ∨ x.state = .resumePending) ∧ x.suspensions = 2 then
            .suspendLimit
          else .cabinet) ∧
        y.awaitSup = (t.tables.cab d).supSeq ∧ y.awaitFloor = x.awaitFloor ∧ y.charge = x.charge ∧
        (t.tables.cab d).supCmd = some (.testStop, p) ∧ (t.tables.cab d).supAwaited = true ∧
        (t.tables.cab d).cmdTimer = some (u.limit (·.commandTime)) ∧ (t.tables.grp g).underTest = some n

/-- R112: the thermal age of a string after a taken measurement advances by interval times factor plus remainder, in
eighths, by the bands of Table 6.3(1), in every mode; at the top of its range it stops with remainder 0 (R115). And
DISCHARGE and TEST_DISCHARGE add the charge out to the discharged charge, saturating (R113, R115), the other modes
nothing; the last sequence and mode are the record's (R111); no other string's accumulators or age move.

The test of a string a measurement is taken for, while the string counts as unusable: Table 7.4(1) by the test state and the
mode (R132), the charge saturating; a RECHARGE while RUNNING completes the test, PASSED where charge over rated capacity
reaches the pass capacity and FAILED otherwise (R133; for a rated capacity of 0 any capacity, notes/assumptions/4.md), and
its capacity is the string's last one; a failed string is DUE, a passed UNVERIFIED one HEALTHY or what the thresholds make
of it (R119). A returned string awaits no stop and its group has no string under test (R140). -/
def Obligations.MeasurementAdvancesTheAccumulators : Prop :=
  (∀ (s : State) (f : InFlight) (n : Str) (r : MeasRec), s.grant = some (.port f) →
     f.ops.all MemOp.inRange = true → f.take = .measure n r →
     let e := s.tables.str n
     let x := r.temperature.toInt
     let factor := if x ≤ 250 then 8 else if x ≤ 300 then 11 else if x ≤ 350 then 16 else if x ≤ 400 then 23
       else if x ≤ 450 then 32 else 45
     let total := r.interval.toNat * factor + e.remainder.toNat
     ∃ t, exec (.portAccessComplete .ok) s = .next t ∧
       let w := t.tables.str n
       w.thermalHours = w.thermal.toNat / 3600 ∧
       (if e.thermal.toNat + total / 8 < 0xFFFFFFFF then
         w.thermal.toNat = e.thermal.toNat + total / 8 ∧ w.remainder.toNat = total % 8
       else w.thermal = 0xFFFFFFFF ∧ w.remainder = 0) ∧
       w.discharged.toNat =
         (if r.mode = .discharge ∨ r.mode = .testDischarge then
           min 0xFFFFFFFF (e.discharged.toNat + r.chargeOut.toNat)
         else e.discharged.toNat) ∧
       w.lastSeq = some r.seq ∧ w.lastMode = some r.mode ∧ w.rated = e.rated ∧ w.install = e.install ∧
       ∀ m, m ≠ n →
         (t.tables.str m).discharged = (s.tables.str m).discharged ∧
           (t.tables.str m).thermal = (s.tables.str m).thermal ∧
           (t.tables.str m).remainder = (s.tables.str m).remainder ∧
           (t.tables.str m).deepCount = (s.tables.str m).deepCount ∧
           (t.tables.str m).episode = (s.tables.str m).episode ∧ (t.tables.str m).age = (s.tables.str m).age) ∧
  (∀ (s : State) (f : InFlight) (n : Str) (r : MeasRec) (c : Cab) (p : Pos), s.grant = some (.port f) →
     f.ops.all MemOp.inRange = true → f.take = .measure n r →
     let u := s.tables
     let e := u.str n
     let x := e.test
     e.usable = false → u.place n = some (c, p) →
     ∃ t, exec (.portAccessComplete .ok) s = .next t ∧
       let w := t.tables
       let y := (w.str n).test
       let sum : Word32 := BitVec.ofNat 32 (min 0xFFFFFFFF (x.charge.toNat + r.chargeOut.toNat))
       let back : Prop := r.mode = .recharge ∨ r.mode = .float
       let ended : Prop := (w.grp (u.groupOf c)).underTest = none ∧ (w.grp (u.groupOf c)).testTimer = none
       (x.state = .idle → y = x) ∧
       (x.state = .requested →
         y = if r.mode = .testDischarge then { x with state := .running, charge := sum } else x) ∧
       (x.state = .running → r.mode ≠ .recharge →
         y = if r.mode = .testDischarge then { x with charge := sum } else x) ∧
       (x.state = .suspendPending → ¬ back →
         y = if r.mode = .testDischarge then { x with charge := sum }
           else if r.mode = .testHold then { x with state := .suspended }
           else x) ∧
       (x.state = .suspended → ¬ back → y = if r.mode = .testDischarge then { x with charge := sum } else x) ∧
       (x.state = .resumePending → ¬ back →
         y = if r.mode = .testDischarge then { x with state := .running, charge := sum } else x) ∧
       (x.state = .stopping → ¬ back → y = x) ∧
       (x.state = .stopping → back → y = { x with state := .idle, awaitFloor := none, awaitSup := none } ∧ ended) ∧
       (x.state = .suspendPending ∨ x.state = .suspended ∨ x.state = .resumePending → back →
         y = { x with state := .idle, result := .aborted, cause := .conditions, awaitFloor := none, awaitSup := none } ∧
           ended) ∧
       (x.state = .running → r.mode = .recharge →
         ended ∧ ∃ capacity : Word16,
           (e.rated ≠ 0 → capacity.toNat = min 65535 (x.charge.toNat / e.rated.toNat)) ∧
           (w.str n).lastCapacity = some capacity ∧
           let passed : Prop := u.limit (·.passCapacity) ≤ capacity.toNat
           y = { x with
             state := .idle, result := if passed then .passed else .failed, cause := .none, awaitFloor := none
             awaitSup := none } ∧
           (¬ passed → (w.str n).age = if e.age = .retired then .retired else .due) ∧
           (passed → e.age = .unverified →
             (w.str n).age =
               if w.meetsDue (w.str n) = true then .due
               else if w.meetsWatch (w.str n) = true then .watch
               else .healthy)))

/-- R114: the deep-discharge count and the episode flag after a taken measurement, by its mode, the threshold in force
and the flag before; the count stops at 255 (R115). A mode that is not listed, which no granted measurement has, leaves both:
the model's choice (notes/assumptions/5.md). -/
def Obligations.DeepDischargeCountsOncePerEpisode : Prop :=
  ∀ (s : State) (f : InFlight) (n : Str) (r : MeasRec), s.grant = some (.port f) →
    f.ops.all MemOp.inRange = true → f.take = .measure n r →
    let e := s.tables.str n
    let below : Bool := decide (r.lowBlock.toNat < s.tables.limit (·.deepThreshold))
    ∃ t, exec (.portAccessComplete .ok) s = .next t ∧
      let w := t.tables.str n
      match r.mode with
      | .discharge =>
        if below = true ∧ e.episode = false then
          w.episode = true ∧ w.deepCount.toNat = min 255 (e.deepCount.toNat + 1)
        else w.episode = e.episode ∧ w.deepCount = e.deepCount
      | .float | .recharge => w.episode = false ∧ w.deepCount = e.deepCount
      | .testDischarge | .testHold | .opened | .unlisted _ => w.episode = e.episode ∧ w.deepCount = e.deepCount

/-- R118: the thresholds move an ageing state only forward among HEALTHY, WATCH and DUE, and never out of UNVERIFIED or
RETIRED.

R117, R108, R112: what meets a due or a watch threshold: the equivalent cycles in hundredths, the thermal hours or the deep
count at or above the value, or the last capacity, where there is one, at or below it. -/
def Obligations.ThresholdsMoveAgeingOnlyForward : Prop :=
  (∀ (u : Tables) (b : Block) (e : StringEntry), u.active = some b →
    let cycles := if e.rated = 0 then 0 else e.discharged.toNat / e.rated.toNat
    let meets (c h d k : Nat) : Prop :=
      c ≤ cycles ∨ h ≤ e.thermal.toNat / 3600 ∨ d ≤ e.deepCount.toNat ∨ ∃ x, e.lastCapacity = some x ∧ x.toNat ≤ k
    (u.meetsDue e = true ↔ meets b.cyclesDue b.thermalDue b.deepDue b.capacityDue) ∧
      (u.meetsWatch e = true ↔ meets b.cyclesWatch b.thermalWatch b.deepWatch b.capacityWatch)) ∧
  ∀ (u : Tables) (n : Str) (k : AgeCause),
    let old := (u.str n).age
    let new := ((u.applyThresholds n k).str n).age
    let due := u.meetsDue (u.str n)
    let watch := u.meetsWatch (u.str n)
    new =
      match old with
      | .healthy => if due = true then .due else if watch = true then .watch else .healthy
      | .watch => if due = true then .due else .watch
      | .due => .due
      | .unverified => .unverified
      | .retired => .retired

/-- R122, R123: what the takes of a REPLACE and a RETIRE leave in the string. -/
def Obligations.ReplaceRenewsAndRetireRetires : Prop :=
  ∀ (s : State) (f : InFlight) (t : Con) (q : Byte) (n : Str), s.grant = some (.port f) →
    f.ops.all MemOp.inRange = true →
    let e := s.tables.str n
    (∀ capacity, f.take = .replace t q n capacity →
      ∃ w, exec (.portAccessComplete .ok) s = .next w ∧
        let x := w.tables.str n
        x.age = .unverified ∧ x.discharged = 0 ∧ x.thermal = 0 ∧ x.remainder = 0 ∧ x.deepCount = 0 ∧
          x.episode = false ∧ x.lastCapacity = none ∧ x.lastSeq = none ∧ x.lastMode = none ∧
          x.install = s.tables.clock ∧ x.rated = (if capacity = 0 then e.rated else capacity) ∧
          (w.tables.vis t).lastReq = some q ∧ x.usable = false) ∧
    (f.take = .retire t q n →
      ∃ w, exec (.portAccessComplete .ok) s = .next w ∧
        let x := w.tables.str n
        x.age = .retired ∧ x.usable = false ∧ x.discharged = e.discharged ∧ x.thermal = e.thermal ∧
          x.deepCount = e.deepCount ∧ x.rated = e.rated ∧ (w.tables.vis t).lastReq = some q)

/-! ## The margin test (04 section 4.7) -/

/-- R77 (2): taking the R largest ratings away is the worst case: the available power is at most what stays after any
other R members are taken away, and it is reached by some R members (all of them, where there are fewer).

R77 (3) to (5): the required power is the smallest whole number not below the load with headroom; the margin holds
with R + 1 ratings or more and enough power; its value is the signed difference.

R74 to R76, R79 to R81: what a re-evaluation leaves in a present cabinet and in its group: the supporting flag, the group
load, the counts, the standing margin and the group state; with no string under test nothing else changes but marks and the
one journal entry of Table 4.8(1). R83, R136: how it moves the string under test, by the suspend condition (Table
7.6(1)). -/
def Obligations.MarginTestCountsTheWorstCase : Prop :=
  (∀ (n : Nat) (ratings : List Nat),
     (∀ out : List Nat, out.Sublist ratings → out.length = min n ratings.length →
       availablePower n ratings ≤ 10 * (ratings.sum - out.sum)) ∧
     ∃ out : List Nat, out.Sublist ratings ∧ out.length = min n ratings.length ∧
       availablePower n ratings = 10 * (ratings.sum - out.sum)) ∧
  (∀ (n headroom load : Nat) (ratings : List Nat),
     let q := requiredPower load headroom
     let m := marginTest n headroom load ratings
     load * (100 + headroom) ≤ 100 * q ∧ (∀ x, load * (100 + headroom) ≤ 100 * x → q ≤ x) ∧
       (m.holds = true ↔ n + 1 ≤ ratings.length ∧ q ≤ availablePower n ratings) ∧
       m.value = (availablePower n ratings : Int) - q ∧
       (ratings.length ≤ n → availablePower n ratings = 0)) ∧
  ∀ (u : Tables) (c : Cab), u.present c = true →
    let w := u.reevalCab c
    let g := u.groupOf c
    let members := allCabs.filter fun d => u.present d && u.groupOf d == g
    let inService (d : Cab) : Bool :=
      match (u.cab d).report with | some r => r.mode == .onlineInverter || r.mode == .onBattery | none => false
    let supports (d : Cab) : Bool :=
      u.present d && (u.cab d).fresh && (u.cab d).machine == .normal && inService d &&
        decide ((u.cabCfg d).minUsable ≤ (u.cab d).usableCount)
    let load := (members.map fun d => (u.cab d).load.toNat).sum
    let margin := marginTest (u.grpCfg g).redundancy (u.grpCfg g).headroom load
      ((members.filter supports).map fun d => (u.cabCfg d).rated)
    let lost : Bool := members.any fun d =>
      (u.cab d).fresh && match (u.cab d).report with | some r => r.utility == .lost | none => false
    let old := (u.grp g).state
    let new : GroupState :=
      if members.any fun d => (u.cab d).machine == .learning then .learning
      else if lost then .utilityLoss
      else if margin.holds then .normal
      else .deficit
    let flagged := u.setCab c { u.cab c with supporting := supports c }
    let fields : GroupEntry :=
      { u.grp g with
        state := new, load, margin := margin.value
        supCount := members.countP fun d => (flagged.cab d).supporting
        bypassCount := members.countP fun d => (u.cab d).machine.out }
    let entry : Option (JKind × Severity) :=
      if old = new then none
      else if new = .utilityLoss then some (.utilityLost, .warning)
      else if old = .utilityLoss ∧ (new = .normal ∨ new = .deficit) then some (.utilityRestored, .notice)
      else if new = .deficit then some (.marginLost, .warning)
      else if old = .deficit ∧ new = .normal then some (.marginRestored, .notice)
      else none
    (w.cab c).supporting = supports c ∧ w.grp g = fields ∧ (∀ h, h ≠ g → w.grp h = u.grp h) ∧
    ((u.grp g).underTest = none →
      ∃ x, (flagged.setGrp g fields).OnlyMarked x ∧
        w = match entry with
          | some (k, v) => x.journal k v (byteOf g.val) new.code (BitVec.ofInt 32 margin.value)
          | none => x) ∧
    ∀ n d p, (u.grp g).underTest = some n → u.place n = some (d, p) →
      let t := (u.str n).test
      let issued := nextSeq (u.cab d).supSeq
      let stopped (k : AbortCause) : TestFields :=
        { t with state := .stopping, result := .aborted, cause := k, awaitSup := some issued }
      let move : Option (SupCmd × TestFields) :=
        if !margin.holds || lost then
          if t.state = .requested then some (.testStop, stopped .conditions)
          else if t.state = .running ∨ t.state = .resumePending then
            if t.suspensions < 2 then
              some (.testSuspend, { t with state := .suspendPending, suspensions := t.suspensions + 1 })
            else some (.testStop, stopped .suspendLimit)
          else none
        else if t.state = .suspendPending ∨ t.state = .suspended then
          some (.testResume, { t with state := .resumePending })
        else none
      match move with
      | some (k, y) =>
        (w.str n).test = y ∧ (w.cab d).supSeq = some issued ∧ (w.cab d).supCmd = some (k, p) ∧
          (w.cab d).supAwaited = true ∧ (w.cab d).cmdTimer = some (u.limit (·.commandTime))
      | none => (w.str n).test = t ∧ (w.cab d).supSeq = (u.cab d).supSeq ∧ (w.cab d).supAwaited = (u.cab d).supAwaited

/-! ## The internal requester (01 section 1.5; 09 section 9.2) -/

/-- R19: a chosen operation of recall, of the loader or of the record writer is issued as one memory operation.

R162: where the writer's operation lies, by the base of the STATE area and the offsets of Table 9.1(1), or the half of the
cabinet's command slot; and what it writes: the records of Tables 2.12(11) to 2.12(13), the journal header, the spent list,
the supervisor half (Table 2.12(7)) and the journal entry (Table 2.12(15)), field by field, with their
check bytes; and the codes of those tables and of Table 2.12(16).

Table 10.1(1): where each read of recall lies, and its length.

R163, R164, R171, R182 (2): what leaves the writer's collections at the grant: a record's place, in whichever set; the half
mark at the half's grant, the place staying; a span entry; nothing for a pending entry, which stays until its write is done;
and the part status is HALTED at the last header. A half mark stays where a retry takes the place away (the model's choice,
notes/assumptions/38.md), and a span entry's retry leaves the span too (notes/assumptions/40.md). -/
def Obligations.InternalGrantIssuesTheClientsOperation : Prop :=
  (∀ (s : State), let u := s.tables
     let granted (w : Tables) (g : Grant) : Prop :=
       exec .internalGrant s = .next { s with rotation := .internal, tables := w, grant := some g }
     (∀ k r rest, s.choice = some (.internal (.recallRead r)) → u.recalling = some k → k.todo = r :: rest →
       granted { u with recalling := some { k with todo := rest } }
         (.recallRead r (u.recallPlace r).1 (u.recallPlace r).2)) ∧
     (∀ a r rest, s.choice = some (.internal (.loader r)) → u.apply = some a → a.todo = r :: rest →
       granted { u with apply := some { a with todo := rest } } (.loader r r.addr 256)) ∧
     ∀ j b, s.choice = some (.internal (.writer j b)) →
       let w := u.setWriter (u.writer.granted j)
       granted w (.writer j b (w.jobWrite j).1 (w.jobWrite j).2)) ∧
  (∀ (u : Tables) (b : Block), u.active = some b →
     let state := b.bases.at' 6
     u.recallPlace .header = (state, 64) ∧
       (∀ i : Fin 16, u.recallPlace (.strings i) = (state + 0x800 + 0x100 * i.val, 256)) ∧
       u.recallPlace (.commands 0) = (b.bases.at' 1, 256) ∧ u.recallPlace (.commands 1) = (b.bases.at' 1 + 0x100, 256) ∧
       u.recallPlace .orders = (b.bases.at' 4, 256) ∧ u.recallPlace .orderStates = (state + 0x5C0, 128) ∧
       u.recallPlace .spentList = (state + 0x640, 64) ∧ u.recallPlace .visits = (state + 0x4C0, 256) ∧
       u.recallPlace .journalHeader = (state + 0x680, 32) ∧ u.recallPlace .consumedIndex = (b.bases.at' 5, 2) ∧
       ∀ i : Fin 16, u.recallPlace (.ring i) = (state + 0x1800 + 0x100 * i.val, 256)) ∧
  (∀ (u : Tables) (i : Fin 4), u.recallPlace (.block i) = (0x100 * i.val, 256)) ∧
  (∀ (w : Writer) (r : RecId) (c : Cab) (e : PendEntry) (x : CopyEntry),
     w.granted (.record r) =
         { w with urgent := w.urgent.filter fun p => decide (p.what ≠ r), lazySet := w.lazySet.erase r } ∧
       (w.Sound → (w.granted (.record r)).placed r = false) ∧
       (∃ h, w.granted (.half c) = { w with half := h } ∧ ∀ d, h.at' d = if d = c then false else w.half.at' d) ∧
       w.granted (.pending e) = w ∧
       w.granted (.span x) = { w with span := w.span.filter fun y => decide (y.entry.seq ≠ x.entry.seq) } ∧
       w.granted .haltedHeader = { w with status := .halted }) ∧
  (∀ (u : Tables) (b : Block) (c : Cab) (g : Grp) (t : Con) (n : Slot) (s : Str) (e : PendEntry) (x : CopyEntry),
     u.active = some b →
     let state := b.bases.at' 6
     let at_ (j : WriterJob) : Nat := (u.jobWrite j).1
     at_ (.record .header) = state ∧ at_ (.record (.cabinet c)) = state + 0x40 + 32 * c.val ∧
       at_ (.record (.group g)) = state + 0x440 + 16 * g.val ∧ at_ (.record (.visit t)) = state + 0x4C0 + 64 * t.val ∧
       at_ (.record (.order n)) = state + 0x5C0 + 16 * n.val ∧ at_ (.record .spentList) = state + 0x640 ∧
       at_ (.record .journalHeader) = state + 0x680 ∧ at_ (.record (.string s)) = state + 0x800 + 32 * s.val ∧
       at_ (.pending e) = state + 0x1800 + 16 * e.pos.toNat ∧ at_ (.span x) = state + 0x1800 + 16 * x.pos.toNat ∧
       at_ .haltedHeader = state ∧ at_ (.half c) = b.bases.at' 1 + 16 * c.val + 8) ∧
  (∀ (u : Tables) (c : Cab),
     let h := (u.jobWrite (.record .header)).2
     let l := (u.jobWrite (.record (.cabinet c))).2
     let f := (u.jobWrite (.half c)).2
     let w := u.writer
     let e := u.cab c
     (h.length = 64 ∧ checkHolds h = true ∧ h.take 4 = [0x4B, 0x32, 0x02, w.status.code] ∧ word32At h 4 = u.clock ∧
       byteAt h 8 = bit u.synced ∧ byteAt h 9 = bit w.latch ∧ word16At h 0xA = w.headerGen ∧
       byteAt h 0xC = w.applyResult.code ∧ byteAt h 0xD = 0 ∧ word16At h 0xE = w.failOffset ∧
       (h.drop 0x10).take 47 = List.replicate 47 0 ∧
       (u.jobWrite .haltedHeader).2 = h) ∧
     (l.length = 32 ∧ checkHolds l = true ∧ byteAt l 0 = byteOf c.val ∧ byteAt l 1 = e.machine.code ∧
       byteAt l 2 = bit e.fresh ∧ byteAt l 3 = (match e.holder with | some t => byteOf t.val | none => 0xFF) ∧
       (∀ r, e.report = some r → byteAt l 4 = r.mode.code ∧ byteAt l 5 = r.utility.code ∧ word16At l 6 = e.load) ∧
       (e.report = none → byteAt l 4 = 0xFF ∧ byteAt l 5 = 0xFF ∧ word16At l 6 = 0) ∧
       byteAt l 8 = e.lastSeq.getD 0 ∧ byteAt l 9 = e.supSeq.getD 0 ∧ byteAt l 0xA = bit e.outstanding ∧
       byteAt l 0xB = bit e.supporting ∧ byteAt l 0xC = byteOf e.usableCount ∧
       byteAt l 0xD = (match e.refusal with | some k => k.code | none => 0) ∧
       byteAt l 0xE = bit e.lastSeq.isSome + 2 * bit e.supSeq.isSome ∧ byteAt l 0xF = 0 ∧
       word32At l 0x10 = e.refusalTime ∧ (l.drop 0x14).take 11 = List.replicate 11 0) ∧
     f.length = 8 ∧ checkHolds f = true ∧ byteAt f 0 = e.supSeq.getD 0 ∧
       (∀ k p, e.supCmd = some (k, p) → byteAt f 1 = k.code ∧ byteAt f 2 = byteOf p.val) ∧
       (e.supCmd = none → byteAt f 1 = 0 ∧ byteAt f 2 = 0) ∧ (f.drop 3).take 4 = [0, 0, 0, 0]) ∧
  (∀ (u : Tables) (g : Grp) (t : Con) (n : Slot) (s : Str),
     let bytes (r : RecId) : List Byte := (u.jobWrite (.record r)).2
     let k := bytes (.group g)
     let l := bytes (.visit t)
     let m := bytes (.order n)
     let q := bytes (.string s)
     let v := u.vis t
     let e := u.str s
     (k.length = 16 ∧ byteAt k 0 = (u.grp g).state.code ∧ byteAt k 1 = byteOf (u.grp g).supCount ∧
       byteAt k 2 = byteOf (u.grp g).bypassCount ∧
       byteAt k 3 = (match (u.grp g).underTest with | some x => byteOf x.val | none => 0xFF) ∧
       word32At k 4 = BitVec.ofNat 32 (u.grp g).load ∧ word32At k 8 = BitVec.ofInt 32 (u.grp g).margin ∧
       k.drop 0xC = [0, 0, 0, 0]) ∧
     (l.length = 64 ∧ checkHolds l = true ∧ byteAt l 0 = v.state.code ∧ byteAt l 1 = v.reason.code ∧
       byteAt l 2 = v.perms ∧ byteAt l 3 = v.lastReq.getD 0 ∧ word32At l 4 = v.order ∧ word32At l 8 = v.badge ∧
       word32At l 0xC = v.scope ∧ word32At l 0x10 = v.openTime ∧ word32At l 0x14 = v.activity ∧
       (l.drop 0x18).take 3 = (match v.lastResult with | some r => [r.status, r.reason, r.detail] | none => [0, 0, 0]) ∧
       byteAt l 0x1B = bit v.lastReq.isSome + 2 * bit v.lastResult.isSome ∧
       (l.drop 0x1C).take 35 = List.replicate 35 0) ∧
     (m.length = 16 ∧ checkHolds m = true ∧ byteAt m 0 = (u.ord n).state.code ∧
       byteAt m 1 = (match (u.ord n).bound with | some x => byteOf x.val | none => 0xFF) ∧
       word16At m 2 = 0 ∧ word32At m 4 = (u.ord n).number ∧ (m.drop 8).take 7 = List.replicate 7 0) ∧
     q.length = 32 ∧ checkHolds q = true ∧ byteAt q 0 = byteOf s.val ∧ byteAt q 1 = e.age.code ∧
       byteAt q 2 = e.test.state.code ∧ byteAt q 3 = byteOf e.test.suspensions ∧ word16At q 4 = e.rated ∧
       byteAt q 6 = e.deepCount ∧
       byteAt q 7 = bit e.episode + 2 * bit e.lastCapacity.isSome + 4 * bit e.lastSeq.isSome +
         8 * e.remainder.zeroExtend 8 ∧
       word32At q 8 = e.discharged ∧ word32At q 0xC = e.thermal ∧ word32At q 0x10 = e.install ∧
       word32At q 0x14 = e.test.charge ∧ word16At q 0x18 = e.lastCapacity.getD 0 ∧ byteAt q 0x1A = e.lastSeq.getD 0 ∧
       byteAt q 0x1B = (match e.lastMode with | some x => x.code | none => 0xFF) ∧
       (q.drop 0x1C).take 3 = [e.test.starter.code, e.test.result.code, e.test.cause.code]) ∧
  (∀ (u : Tables) (h : JHead) (e : PendEntry) (i : Fin 16),
     let l := (u.jobWrite (.record .journalHeader)).2
     let m := (u.jobWrite (.record .spentList)).2
     let j := (u.jobWrite (.pending e)).2
     (u.writer.head = some h →
       l.length = 32 ∧ word32At l 0 = h.nextSeq ∧ word16At l 4 = h.nextPos.zeroExtend 16 ∧
         word16At l 6 = BitVec.ofNat 16 h.unconsumed ∧ word16At l 8 = (u.lastConsumed.getD 0).zeroExtend 16 ∧
         byteAt l 0xA = bit h.lost ∧ l.drop 0xB = List.replicate 21 0) ∧
     (u.spent.length ≤ 16 → m.length = 64 ∧ word32At m (4 * i.val) = u.spent.getD i.val 0) ∧
     j.length = 16 ∧ word32At j 0 = e.entry.seq ∧ word32At j 4 = e.entry.time ∧ byteAt j 8 = e.entry.kind ∧
       byteAt j 9 = e.entry.severity ∧ byteAt j 0xA = e.entry.subject ∧ byteAt j 0xB = e.entry.detail ∧
       word32At j 0xC = e.entry.value ∧ ∀ x : CopyEntry, x.entry = e.entry → (u.jobWrite (.span x)).2 = j) ∧
  [Xfer.absent, .learning, .normal, .xferOut, .bypass, .xferBack, .unsanctioned].map Xfer.code = [0, 1, 2, 3, 4, 5, 6] ∧
  [CabMode.onlineInverter, .onBattery, .staticBypass, .maintBypass, .off, .fault].map CabMode.code =
    [0, 1, 2, 3, 4, 5] ∧
  [Utility.ok, .lost].map Utility.code = [0, 1] ∧
  [AgeState.unverified, .healthy, .watch, .due, .retired].map AgeState.code = [0, 1, 2, 3, 4] ∧
  [TestState.idle, .requested, .running, .suspendPending, .suspended, .resumePending, .stopping].map TestState.code =
    [0, 1, 2, 3, 4, 5, 6] ∧
  [Starter.console 0, .console 3, .sup, .none].map Starter.code = [0, 3, 0x10, 0xFF] ∧
  [TestResult.none, .passed, .failed, .declined, .aborted].map TestResult.code = [0, 1, 2, 3, 4] ∧
  [AbortCause.none, .stopped, .timeout, .duration, .suspendLimit, .conditions, .reset, .cabinet].map AbortCause.code =
    [0, 1, 2, 3, 4, 5, 6, 7] ∧
  [MeasMode.float, .discharge, .recharge, .testDischarge, .testHold, .opened].map MeasMode.code = [0, 1, 2, 3, 4, 5] ∧
  [GroupState.learning, .normal, .deficit, .utilityLoss].map GroupState.code = [0, 1, 2, 3] ∧
  [VisitState.none, .opened, .warned, .ended].map VisitState.code = [0, 1, 2, 3] ∧
  [EndReason.none, .closed, .idle, .duration, .key, .revoked, .reset, .power].map EndReason.code =
    [0, 1, 2, 3, 4, 5, 6, 7] ∧
  [OrderState.empty, .offered, .inUse, .spent, .withdrawn].map OrderState.code = [0, 1, 2, 3, 4] ∧
  [ApplyResult.none, .applied, .invalid, .busyState].map ApplyResult.code = [0, 1, 2, 3] ∧
  [PartStatus.running, .halted].map PartStatus.code = [0, 1] ∧
  [SupCmd.testStop, .testSuspend, .testResume].map SupCmd.code = [4, 5, 6] ∧
  [Severity.info, .notice, .warning, .critical].map Severity.code = [0, 1, 2, 3] ∧
  [JKind.start, .powerWarn, .configApplied, .configRejected, .clockSet, .lost, .writerFault, .cabStale, .cabFresh,
      .marginLost, .marginRestored, .utilityLost, .utilityRestored, .xferGranted, .xferRefused, .xferDeclined,
      .xferTimeout, .returnTimeout, .bypassEntered, .bypassLeft, .adopted, .unsanctioned, .ageState, .unplannedTest,
      .testStarted, .testSuspended, .testEnded, .noAck, .visitOpened, .visitWarned, .visitEnded].map JKind.code =
    [1, 2, 3, 4, 5, 6, 7, 0x10, 0x11, 0x12, 0x13, 0x14, 0x15, 0x20, 0x21, 0x22, 0x23, 0x24, 0x25, 0x26, 0x27, 0x28,
      0x30, 0x31, 0x38, 0x39, 0x3B, 0x3C, 0x40, 0x41, 0x42]

/-- R19, R164, R182 (2): which operation the internal requester presents, by the part's condition and the collections of its
clients. The earlier joining has the smaller stamp: `EveryStepKeepsTheJournalInOrder`. In the drain the retry comes first even
where it is a write of the header, which R182 (2) holds back: the model's choice (notes/assumptions/41.md).

R19 (1), (2): while recall runs, its reads and no other operation; otherwise the loader's next read, while an apply has one;
otherwise the writer's. R164: a cabinet's place with its half mark set yields the half first, every other place its record.

R21, R172, R182, R183: nothing is presented while RESET is asserted, while the part halts, in HALTED, and in the NOMAP state
but for the loader. That HALTED presents no read of an apply either is the model's choice (notes/assumptions/34.md). -/
def Obligations.WriterPresentsRetrySpanThenTheEarlierJoin : Prop :=
  (∀ u : Tables, (∀ a, u.apply = some a → a.todo = []) → u.active ≠ none → (u.mode = .running ∨ u.mode = .draining) →
    let w := u.writer
    (∀ j, w.retry = some j → u.internalNext = some (.writer j true)) ∧
    (w.retry = none →
      (∀ e rest, w.span = e :: rest → u.internalNext = some (.writer (.span e) false)) ∧
      (w.span = [] →
        (∀ p l e m, w.urgent = p :: l → w.pending = e :: m →
          u.internalNext =
            some (.writer (if p.stamp < e.stamp then w.placeJob p else .pending e) false)) ∧
        (∀ p l, w.urgent = p :: l → w.pending = [] → u.internalNext = some (.writer (w.placeJob p) false)) ∧
        (∀ e m, w.urgent = [] → w.pending = e :: m → u.internalNext = some (.writer (.pending e) false)) ∧
        (w.urgent = [] → w.pending = [] →
          u.internalNext = if u.mode = .draining then some (.writer .haltedHeader false) else none)))) ∧
  (∀ (w : Writer) (p : Place),
    (∀ c, p.what = .cabinet c → w.placeJob p = if w.half.at' c = true then .half c else .record (.cabinet c)) ∧
    ((∀ c, p.what ≠ .cabinet c) → w.placeJob p = .record p.what)) ∧
  (∀ u : Tables, u.mode = .recalling →
    (∀ k r rest, u.recalling = some k → k.todo = r :: rest → u.internalNext = some (.recallRead r)) ∧
    ((∀ k, u.recalling = some k → k.todo = []) → u.internalNext = none)) ∧
  (∀ u : Tables, u.mode = .running ∨ u.mode = .draining →
    (∀ a r rest, u.apply = some a → a.todo = r :: rest → u.internalNext = some (.loader r)) ∧
    (u.active = none → (∀ a, u.apply = some a → a.todo = []) → u.internalNext = none)) ∧
  ∀ u : Tables, (u.mode = .inReset ∨ u.mode = .halting ∨ u.mode = .halted) → u.internalNext = none

/-- R167, R168: with the head established, no LOST entry due and space for one more, an entry takes the next sequence
and position and joins the copy and the pending list, and ATTN follows the copy (R170); without space it is dropped and the
lost mark set. Space is an unconsumed count below 256 and fewer than 32 entries in the pending list, held ones counted.

R168: while the lost mark is set and space allows, LOST comes first, and the mark becomes clear.

R172, R163: before the head is established an entry joins the pending list at its creation, with the stamp of its joining,
and the journal header is marked urgent; one that finds 32 there is dropped, and the drop is kept. In the NOMAP state it is
discarded. A severity code above 03h in the copy ranks by its number: the model's choice (notes/assumptions/39.md). That an entry
held keeps the stamp of its creation is its reading (notes/assumptions/24.md), and that a journal header which faulted twice in
the drain is not marked its choice (notes/assumptions/43.md). -/
def Obligations.EntryTakesTheNextPlaceOrIsDropped : Prop :=
  (∀ (u : Tables) (h : JHead) (b : Block) (k : JKind) (v : Severity) (subject detail : Byte) (value : Word32),
     u.active = some b → u.writer.head = some h → h.lost = false →
     let w := (u.journal k v subject detail value).writer
     let e : JEntry :=
       { seq := h.nextSeq, time := u.clock, kind := k.code, severity := v.code, subject, detail, value }
     if h.unconsumed < 256 ∧ u.writer.held.length + u.writer.pending.length < 32 then
       w.head = some { h with nextSeq := h.nextSeq + 1, nextPos := h.nextPos + 1, unconsumed := h.unconsumed + 1 } ∧
         w.copy = u.writer.copy ++ [⟨h.nextPos, e, false⟩] ∧
         w.pending = u.writer.pending ++ [⟨h.nextPos, e, u.writer.stamp⟩] ∧ w.held = u.writer.held ∧
         (u.heldBack .journalHeader = false → w.inUrgent .journalHeader = true) ∧
         (w.attn = true ↔ u.writer.latch = true ∨ ∃ x ∈ w.copy, b.attention ≤ x.entry.severity.toNat)
     else
       w.head = some { h with lost := true } ∧ w.copy = u.writer.copy ∧ w.pending = u.writer.pending ∧
         w.held = u.writer.held ∧ (u.heldBack .journalHeader = false → w.inUrgent .journalHeader = true) ∧
         w.attn = u.writer.attn) ∧
  (∀ (u : Tables) (h : JHead) (k : JKind) (v : Severity) (subject detail : Byte) (value : Word32),
     u.active ≠ none → u.writer.head = some h → h.lost = true →
     h.unconsumed < 255 → u.writer.held.length + u.writer.pending.length < 31 →
     let w := (u.journal k v subject detail value).writer
     let first : JEntry :=
       { seq := h.nextSeq, time := u.clock, kind := 0x06, severity := 0x02, subject := 0, detail := 0, value := 0 }
     let e : JEntry :=
       { seq := h.nextSeq + 1, time := u.clock, kind := k.code, severity := v.code, subject, detail, value }
     w.head = some
         { nextSeq := h.nextSeq + 2, nextPos := h.nextPos + 2, unconsumed := h.unconsumed + 2, lost := false } ∧
       w.copy = u.writer.copy ++ [⟨h.nextPos, first, false⟩, ⟨h.nextPos + 1, e, false⟩]) ∧
  (∀ (u : Tables) (k : JKind) (v : Severity) (subject detail : Byte) (value : Word32),
     u.active ≠ none → u.writer.head = none →
     let w := u.writer
     let e : RawEntry := { time := u.clock, kind := k, severity := v, subject, detail, value }
     let joined : Writer := { w with held := w.held ++ [⟨e, w.stamp⟩], stamp := w.stamp + 1 }
     u.journal k v subject detail value =
       u.setWriter
         (if w.held.length + w.pending.length < 32 then
           if u.heldBack .journalHeader = true ∨ w.inUrgent .journalHeader = true then joined
           else
             { joined with
               lazySet := w.lazySet.erase .journalHeader
               urgent := w.urgent ++ [⟨.journalHeader, w.stamp + 1⟩], stamp := w.stamp + 2 }
         else { w with heldDrop := true })) ∧
  ∀ (u : Tables) (k : JKind) (v : Severity) (subject detail : Byte) (value : Word32), u.active = none →
    u.journal k v subject detail value = u

/-- R166: a writer write answered OK lands and its job is done; a first FAULT makes it the retry; a second FAULT sets the
latch, which asserts ATTN where it was clear and the journal head is established (R170).

R164, R166 (3): a pending entry leaves the pending list when its write is OK and when it is given up, where no LOST entry is
due; given up, it stays in the journal copy, and no WRITER_FAULT is created for it.

R166 (2): a second FAULT on a record or a supervisor half creates WRITER_FAULT with the record's code and number and the
address (Tables 9.5(1), 9.5(2)) and leaves it dirty: in neither set it joins the tail of the lazy set, and a half's mark is
set again.

R182 (1): in the drain WRITER_FAULT is created in the same way, and what has faulted twice is left in no set, or with no half
mark. No later mark places it, until RESET: the model's reading (notes/assumptions/43.md). -/
def Obligations.WriterWriteIsRetriedOnce : Prop :=
  (∀ (s : State) (j : WriterJob) (isRetry : Bool) (addr : Nat) (bytes : List Byte),
    s.grant = some (.writer j isRetry addr bytes) → s.mem.wf = true → 1 ≤ bytes.length → bytes.length ≤ 256 →
    addr + bytes.length ≤ 0x100000 →
    (∃ t, exec (.writerWriteComplete .ok) s = .next t ∧ t.grant = none ∧ t.queues = s.queues ∧ t.sent = s.sent ∧
      t.tables.writer.retry = none ∧ t.tables.cabs = s.tables.cabs ∧ t.tables.strings = s.tables.strings ∧
      ∀ x, t.mem.look x = if addr ≤ x ∧ x < addr + bytes.length then bytes[x - addr]? else s.mem.look x) ∧
    (isRetry = false →
      exec (.writerWriteComplete .fault) s =
        .next { s with
          grant := none, mem := s.mem.spoil addr bytes.length
          tables := s.tables.setWriter { s.tables.writer with retry := some j } }) ∧
    (isRetry = true →
      ∃ t, exec (.writerWriteComplete .fault) s = .next t ∧ t.grant = none ∧ t.tables.writer.retry = none ∧
        t.tables.writer.latch = true ∧
        (s.tables.writer.latch = false → s.tables.active ≠ none → s.tables.writer.head ≠ none →
          t.tables.writer.attn = true) ∧
        t.tables.cabs = s.tables.cabs ∧ t.tables.strings = s.tables.strings ∧
        ∀ x, t.mem.look x = if addr ≤ x ∧ x < addr + bytes.length then none else s.mem.look x)) ∧
  (∀ (s : State) (e : PendEntry) (b : Bool) (addr : Nat) (bytes : List Byte) (answer : MemAnswer),
    s.grant = some (.writer (.pending e) b addr bytes) → opInRange addr bytes.length = true →
    (answer = .fault → b = true) → (∀ h, s.tables.writer.head = some h → h.lost = false) →
    ∃ t, exec (.writerWriteComplete answer) s = .next t ∧
      t.tables.writer.pending = s.tables.writer.pending.filter (fun x => decide (x.entry.seq ≠ e.entry.seq)) ∧
      t.tables.writer.held = s.tables.writer.held ∧ t.tables.writer.copy = s.tables.writer.copy ∧
      t.tables.writer.head = s.tables.writer.head) ∧
  (∀ (s : State) (j : WriterJob) (r : RecId) (addr : Nat) (bytes : List Byte) (h : JHead),
    s.grant = some (.writer j true addr bytes) → opInRange addr bytes.length = true → s.tables.active ≠ none →
    s.tables.writer.head = some h → h.lost = false → h.unconsumed < 256 → s.tables.writer.listed < 32 →
    (j = .record r ∨ ∃ c, j = .half c ∧ r = .cabinet c) →
    let u := s.tables
    let w := u.writer
    let named : Byte × Byte :=
      match j, r with
      | .half c, _ => (0x09, byteOf c.val)
      | _, .header => (0x01, 0)
      | _, .cabinet c => (0x02, byteOf c.val)
      | _, .group g => (0x03, byteOf g.val)
      | _, .visit t => (0x04, byteOf t.val)
      | _, .order n => (0x05, byteOf n.val)
      | _, .spentList => (0x06, 0)
      | _, .journalHeader => (0x07, 0)
      | _, .string n => (0x08, byteOf n.val)
    let e : JEntry :=
      { seq := h.nextSeq, time := u.clock, kind := 0x07, severity := 0x02, subject := named.2, detail := named.1
        value := BitVec.ofNat 32 addr }
    ∃ t, exec (.writerWriteComplete .fault) s = .next t ∧
      let v := t.tables.writer
      v.copy = w.copy ++ [⟨h.nextPos, e, false⟩] ∧ v.pending.map (·.entry) = w.pending.map (·.entry) ++ [e] ∧
      v.retry = none ∧
      (u.mode ≠ .draining → u.heldBack r = false →
        v.placed r = true ∧
          (w.placed r = false → r ≠ .header → r ≠ .journalHeader → ∃ l, v.lazySet = l ++ [r]) ∧
          ∀ c, j = .half c → c ∉ w.barredHalves → v.half.at' c = true) ∧
      (u.mode = .draining →
        (j = .record r → w.Sound →
          v.placed r = false ∧ t.tables.markUrgent r = t.tables ∧ t.tables.markLazy r = t.tables) ∧
        ∀ c, j = .half c →
          v.half.at' c = false ∧ (v.placed r = true → w.placed r = true) ∧
            (t.tables.markHalf c).writer.half.at' c = false)) ∧
  ∀ (s t : State) (c : Instr), exec c s = .next t → c ≠ .reset →
    (∀ r ∈ s.tables.writer.barred, r ∈ t.tables.writer.barred) ∧
      ∀ x ∈ s.tables.writer.barredHalves, x ∈ t.tables.writer.barredHalves

/-! ## The loader (03 sections 3.2 to 3.5) -/

/-- R41, R47, R48: a loader read answered OK with reads left is kept: a block read, the first of which also gives the
generation copy and adds the re-reads of a moved CABCMD and WORKORD, and each re-read. Without an apply the completion is
discarded (R50). R49, R54: one answered FAULT ends the apply INVALID at its offset, and nothing but the writer changes.

R51, R53, R54, R61: the last read answered OK decides the block: INVALID and BUSY_STATE change nothing but the writer;
APPLIED makes the block active, each field as Table 2.12(4) places it in the four reads, and sets the lock when it carries lock
byte 01h.

R55 to R60: what APPLIED hands over: each cabinet by its presence before and after, the moved command and work order
slots, ownership, rated capacities and thresholds, the groups' loads, counts and states, the STATE move, which marks
every record but one that R182 (1) keeps out (notes/assumptions/43.md), and ATTN; with no configuration before, recall
goes on with the header. That a string no present cabinet lists keeps its rated capacity is the model's reading of R56
(notes/assumptions/26.md), and that a severity above 03h ranks by its number its choice (notes/assumptions/39.md).

R53: which conflict rejects a valid block, and its offset. -/
def Obligations.LoaderReadsAreKeptAndTheLastDecides : Prop :=
  (∀ (s : State) (r : LoaderRead) (addr : Nat), s.grant = some (.loader r addr 256) → addr + 256 ≤ 0x100000 →
     let u := s.tables
     let given := (s.mem.takeBytes addr 256).1
     let left (w : Tables) : Prop :=
       exec (.applyReadComplete .ok) s =
         .next { s with grant := none, mem := (s.mem.takeBytes addr 256).2, tables := w }
     (u.apply = none → left u ∧ exec (.applyReadComplete .fault) s = .next { s with grant := none }) ∧
     ∀ a, u.apply = some a →
       (∀ i : Fin 4, i ≠ 0 → r = .block i → a.todo ≠ [] →
         left { u with apply := some { a with block := a.block ++ given } }) ∧
       (∀ b h, r = .cabcmd b h → a.todo ≠ [] →
         left { u with apply := some { a with commands := a.commands ++ given } }) ∧
       (∀ b, r = .workord b → a.todo ≠ [] → left { u with apply := some { a with orders := a.orders ++ given } }) ∧
       (r = .block 0 →
         let base (k : Fin 7) : Nat := (word32At given (0x10 + 4 * k.val)).toNat
         let moves (k : Fin 7) (size : Nat) : Bool :=
           match u.active with
           | none => false
           | some o =>
             decide (base k ≠ o.bases.at' k ∧ base k < 0x1000000 ∧ base k % size = 0 ∧ base k + size ≤ 0x100000)
         let rereads : List LoaderRead :=
           (if moves 1 0x200 then [.cabcmd (base 1) 0, .cabcmd (base 1) 1] else []) ++
             (if moves 4 0x100 then [.workord (base 4)] else [])
         a.todo ++ rereads ≠ [] →
         left { u with
           genLow := some (byteAt given 2), genHigh := some (byteAt given 3)
           apply := some { a with block := a.block ++ given, todo := a.todo ++ rereads } }) ∧
       ∃ t, exec (.applyReadComplete .fault) s = .next t ∧ t.grant = none ∧ t.mem = s.mem ∧ t.queues = s.queues ∧
         t.sent = s.sent ∧ ({ u with apply := none }).SameButWriter t.tables ∧
         t.tables.writer.applyResult = .invalid ∧
         t.tables.writer.failOffset =
           (match r with
             | .block i => BitVec.ofNat 16 (0x100 * i.val)
             | .cabcmd _ _ => 0x014
             | .workord _ => 0x020) ∧
         t.tables.writer.headerGen = u.writer.headerGen) ∧
  (∀ (s : State) (r : LoaderRead) (addr : Nat) (a : Apply), s.grant = some (.loader r addr 256) →
     addr + 256 ≤ 0x100000 → s.tables.apply = some a → a.todo = [] → r ≠ .block 0 →
     let u := s.tables
     let given := (s.mem.takeBytes addr 256).1
     let bytes := match r with | .block _ => a.block ++ given | _ => a.block
     let commands := match r with | .cabcmd _ _ => a.commands ++ given | _ => a.commands
     let orders := match r with | .workord _ => a.orders ++ given | _ => a.orders
     let b := parseBlock bytes
     ∃ t, exec (.applyReadComplete .ok) s = .next t ∧ t.grant = none ∧ t.mem = (s.mem.takeBytes addr 256).2 ∧
       t.queues = s.queues ∧ t.sent = s.sent ∧ t.tables.apply = none ∧
       match validate bytes with
       | some o =>
         ({ u with apply := none }).SameButWriter t.tables ∧ t.tables.writer.applyResult = .invalid ∧
           t.tables.writer.failOffset = BitVec.ofNat 16 o ∧ t.tables.writer.headerGen = u.writer.headerGen
       | none =>
         match u.conflict b with
         | some o =>
           ({ u with apply := none }).SameButWriter t.tables ∧ t.tables.writer.applyResult = .busyState ∧
             t.tables.writer.failOffset = BitVec.ofNat 16 o ∧ t.tables.writer.headerGen = u.writer.headerGen
         | none =>
           t.tables.active = some b ∧ b.Carries bytes ∧ t.tables.lock = (u.lock || b.lock) ∧
             t.tables.writer.applyResult = .applied ∧ t.tables.writer.failOffset = 0xFFFF ∧
             t.tables.writer.headerGen = b.generation ∧
             t.tables.mode = (if u.active = none then .recalling else u.mode) ∧
             (u.active = none →
               t.tables.recalling = some { todo := [.header], got := [], resumed := false }) ∧
             u.HandedOver b commands orders t.tables) ∧
  (∀ (u : Tables) (b : Block), u.active = none → u.conflict b = none) ∧
  ∀ (u : Tables) (o b : Block), u.active = some o →
    let active (n : Str) : Prop := (u.str n).test.state ≠ .idle
    let tested (c : Cab) : Prop := ∃ p n, (o.cabs.at' c).strings.at' p = some n ∧ active n
    let opened (t : Con) : Prop := (u.vis t).state = .opened ∨ (u.vis t).state = .warned
    let busy (c : Cab) : Prop :=
      ((u.cab c).machine ≠ .normal ∧ (u.cab c).machine ≠ .learning) ∨
        (∃ t, opened t ∧ hasBit (u.vis t).scope c.val = true) ∨ tested c
    let was (c : Cab) : Prop := (o.cabs.at' c).present = true
    let stays (c : Cab) : Prop := was c ∧ (b.cabs.at' c).present = true
    let regrouped (c : Cab) : Prop := stays c ∧ (o.cabs.at' c).group ≠ (b.cabs.at' c).group ∧ busy c
    let relisted (c : Cab) (p : Pos) : Prop :=
      stays c ∧ ¬ regrouped c ∧ tested c ∧ (o.cabs.at' c).strings.at' p ≠ (b.cabs.at' c).strings.at' p ∧
        ∀ q, q < p → (o.cabs.at' c).strings.at' q = (b.cabs.at' c).strings.at' q
    let atCab (c : Cab) (x : Nat) : Prop :=
      (was c ∧ ¬ stays c ∧ busy c ∧ x = 0x100 + 16 * c.val) ∨ (regrouped c ∧ x = 0x101 + 16 * c.val) ∨
        ∃ p, relisted c p ∧ x = 0x105 + 16 * c.val + p.val
    let moved (k : Fin 7) : Prop :=
      o.bases.at' k ≠ b.bases.at' k ∧
        ((∃ t, opened t) ∨ (∃ n, active n) ∨ ∃ c, (u.cab c).machine = .xferOut ∨ (u.cab c).machine = .xferBack)
    ∀ x, u.conflict b = some x ↔
      (∃ c, atCab c x ∧ ∀ d, d < c → ∀ y, ¬ atCab d y) ∨
        ((∀ c y, ¬ atCab c y) ∧ ∃ k, moved k ∧ x = 0x10 + 4 * k.val ∧ ∀ j, j < k → ¬ moved j)

/-! ## Recall (10 section 10.2) -/

/-- R174: the fourth block read ends step 1: with a valid block the configuration is active and the header is read
next; otherwise recall ends in the NOMAP state, the clock 0 UNSYNCED and advancing, the result INVALID. The lock stays
clear either way. Each field of the configuration stands in the four reads where Table 2.12(4) places it.

What step 1 judges: the first block read answered FAULT, at the offset of its first byte, otherwise the block by R51. And
R51, R52: what validation rejects: `bad` says which field of the block fails its check of Table 3.3(1), `order` is the order
of the checks; the failing field offset is that of the first check that fails. That an FFh followed by another string byte
fails at the FFh's own position is the model's reading of the table (notes/assumptions/27.md). -/
def Obligations.RecallStepOneFindsTheConfiguration : Prop :=
  (∀ (s : State) (addr : Nat) (k : Recall) (b : MemAnswer), s.grant = some (.recallRead (.block 3) addr 256) →
     addr + 256 ≤ 0x100000 → s.tables.mode = .recalling → s.tables.recalling = some k →
     let u := s.tables
     let last := match b with | .ok => some (s.mem.takeBytes addr 256).1 | .fault => none
     ∃ t, exec (.recallReadComplete b) s = .next t ∧ t.grant = none ∧ t.tables.lock = u.lock ∧
       match recallBlock (k.got ++ [last]) with
       | .ok c =>
         t.tables.active = some c ∧ t.tables.mode = .recalling ∧
           t.tables.recalling = some { todo := [.header], got := [], resumed := false } ∧
           t.tables.writer.applyResult = .applied ∧ t.tables.writer.headerGen = c.generation
       | .error o =>
         t.tables.active = u.active ∧ t.tables.mode = .running ∧ t.tables.recalling = none ∧ t.tables.clock = 0 ∧
           t.tables.synced = false ∧ t.tables.advancing = true ∧ t.tables.writer.applyResult = .invalid ∧
           t.tables.writer.failOffset = BitVec.ofNat 16 o ∧ t.tables.writer.attn = u.writer.attn) ∧
  (∀ (g : Got) (i : Nat), g[i]? = some none → (∀ j, j < i → ∃ l, g[j]? = some (some l)) →
     recallBlock g = .error (0x100 * i)) ∧
  (∀ k l m n : List Byte,
     recallBlock [some k, some l, some m, some n] =
       match validate (k ++ l ++ m ++ n) with
       | some o => .error o
       | none => .ok (parseBlock (k ++ l ++ m ++ n))) ∧
  (∀ bytes : List Byte, (parseBlock bytes).Carries bytes) ∧
  ∀ bytes : List Byte,
    let b8 (o : Nat) : Nat := (byteAt bytes o).toNat
    let b16 (o : Nat) : Nat := (word16At bytes o).toNat
    let b32 (o : Nat) : Nat := (word32At bytes o).toNat
    let out (lo hi n : Nat) : Prop := n < lo ∨ hi < n
    let meet (x y : Nat × Nat) : Prop := x.1 < y.1 + y.2 ∧ y.1 < x.1 + x.2
    let placed (x : Nat × Nat) : Prop :=
      x.1 < 0x1000000 ∧ x.1 % x.2 = 0 ∧ x.1 + x.2 ≤ 0x100000 ∧ ¬ meet x (0, 0x400)
    let area (k : Fin 7) : Nat × Nat :=
      (b32 (0x10 + 4 * k.val), [0x400, 0x200, 0x1000, 0x80, 0x100, 0x40, 0x4000].getD k.val 0)
    let code (n : Fin 8) : Nat := b8 (0x44 + 8 * n.val)
    let region (n : Fin 8) : Nat × Nat := (b32 (0x40 + 8 * n.val), 0x80 * 2 ^ code n)
    let present (c : Cab) : Prop := b8 (0x100 + 16 * c.val) = 1
    let string (c : Cab) (p : Pos) : Nat := b8 (0x105 + 16 * c.val + p.val)
    let stringOk (c : Cab) (p : Pos) : Prop :=
      (string c p = 0xFF ∧ ∀ q, p ≤ q → string c q = 0xFF) ∨
        (string c p < 0x80 ∧ ∀ d q, present d → d < c ∨ (d = c ∧ q < p) → string d q ≠ string c p)
    let bad (o : Nat) : Prop :=
      (o = 0 ∧ b8 0 ≠ 1) ∨ (o = 6 ∧ 1 < b8 6) ∨ (o = 7 ∧ 3 < b8 7) ∨
        (∃ k : Fin 7, o = 0x10 + 4 * k.val ∧ ¬ (placed (area k) ∧ ∀ j, j < k → ¬ meet (area j) (area k))) ∨
        (∃ n : Fin 8, o = 0x44 + 8 * n.val ∧ 12 < code n) ∨
        (∃ n : Fin 8, o = 0x40 + 8 * n.val ∧ code n ≠ 0 ∧
          ¬ (placed (region n) ∧ (∀ k, ¬ meet (area k) (region n)) ∧
            ∀ m, m < n → code m ≠ 0 → ¬ meet (region m) (region n))) ∨
        (∃ (n : Fin 8) (j : Fin 3), o = 0x45 + 8 * n.val + j.val ∧ code n ≠ 0 ∧ 3 < b8 o) ∨
        (o = 0x80 ∧ out 2 120 (b16 o)) ∨ (o = 0x82 ∧ out 5 600 (b16 o)) ∨ (o = 0x84 ∧ out 10 1440 (b16 o)) ∨
        (o = 0x86 ∧ out 60 3600 (b16 o)) ∨ (o = 0x88 ∧ out (b16 0x86 + 1) 7200 (b16 o)) ∨
        (o = 0x8A ∧ out 10 3600 (b16 o)) ∨ (o = 0x8E ∧ out 1 100 (b8 o)) ∨ (o = 0x92 ∧ b16 o < b16 0x90) ∨
        (o = 0x96 ∧ b16 o < b16 0x94) ∨ (o = 0x99 ∧ b8 o < b8 0x98) ∨ (o = 0x9A ∧ 100 < b8 o) ∨
        (o = 0x9B ∧ b8 0x9A ≤ b8 o) ∨
        (∃ g : Grp, (o = 0xC0 + 8 * g.val ∧ 2 < b8 o) ∨ (o = 0xC1 + 8 * g.val ∧ 50 < b8 o) ∨
          (o = 0xC2 + 8 * g.val ∧ out 1 2 (b8 o))) ∨
        (∃ c : Cab, o = 0x100 + 16 * c.val ∧ 1 < b8 o) ∨
        (∃ c : Cab, present c ∧
          ((o = 0x101 + 16 * c.val ∧ 7 < b8 o) ∨ (o = 0x102 + 16 * c.val ∧ out 10 1000 (b16 o)) ∨
            (∃ p : Pos, o = 0x105 + 16 * c.val + p.val ∧ ¬ stringOk c p) ∨
            (o = 0x104 + 16 * c.val ∧
              out 1 (allPositions.filter fun p => decide (string c p < 0x80)).length (b8 o)))) ∨
        ∃ n : Str, o = 0x300 + 2 * n.val ∧ (∃ c p, present c ∧ string c p = n.val) ∧ out 10 3000 (b16 o)
    let order : List Nat :=
      [0, 6, 7] ++ (List.range 7).map (0x10 + 4 * ·) ++ (List.range 8).map (0x44 + 8 * ·) ++
        (List.range 8).map (0x40 + 8 * ·) ++ (List.range 8).flatMap (fun n => [0x45 + 8 * n, 0x46 + 8 * n, 0x47 + 8 * n]) ++
        [0x80, 0x82, 0x84, 0x86, 0x88, 0x8A, 0x8E, 0x92, 0x96, 0x99, 0x9A, 0x9B] ++
        (List.range 8).flatMap (fun g => [0xC0 + 8 * g, 0xC1 + 8 * g, 0xC2 + 8 * g]) ++
        (List.range 32).map (0x100 + 16 * ·) ++ (List.range 32).flatMap (fun c => [0x101 + 16 * c, 0x102 + 16 * c]) ++
        (List.range 32).flatMap (fun c => (List.range 4).map (0x105 + 16 * c + ·)) ++
        (List.range 32).map (0x104 + 16 * ·) ++ (List.range 128).map (0x300 + 2 * ·)
    (validate bytes = none ↔ ∀ o, ¬ bad o) ∧
      ∀ o, validate bytes = some o ↔ bad o ∧ ∃ l r, order = l ++ o :: r ∧ ∀ x ∈ l, ¬ bad x

/-- R175: step 2 takes the clock from a good header, and 0 otherwise, after a FAULT too; UNSYNCED and advancing in each case;
the string records are read next, 16 reads.

R176: step 3, at its last read. A valid string record gives its string every field, the record's rated capacity where it
lies in 10-3000, the thresholds applied; an invalid one leaves an UNVERIFIED string installed now. Of the recalled active
tests the lowest of each group's becomes STOPPING, ABORTED with cause RESET, and the string under test; the others are IDLE.
That a thermal age of FFFFFFFFh is recalled with the record's remainder, not with the 0 of R115, is the model's choice
(notes/assumptions/44.md). That an unlisted starter, result, cause or mode code of a valid record is kept as its byte is the
model's reading (notes/assumptions/5.md).

R177: step 4, at its last read. Each cabinet takes both sequences from its slot, none after a FAULT, with nothing
outstanding; a STOPPING string gets a TEST_STOP issued, the next in sequence, and both timers started. -/
def Obligations.RecallStepTwoSetsTheClock : Prop :=
  (∀ (s : State) (addr : Nat) (k : Recall) (header : List Byte), s.grant = some (.recallRead .header addr 64) →
     addr + 64 ≤ 0x100000 → s.tables.mode = .recalling → s.tables.recalling = some k → k.got = [] →
     header.length = 64 → (∀ i, i < 64 → s.mem.look (addr + i) = header[i]?) →
     let good := checkHolds header && decide (header.take 3 = [0x4B, 0x32, 0x02])
     exec (.recallReadComplete .ok) s =
       .next { s with
         grant := none
         tables := { s.tables with
           clock := if good then word32At header 4 else 0, synced := false, advancing := true
           recalling := some { todo := (List.finRange 16).map .strings, got := [], resumed := good } } }) ∧
  (∀ (s : State) (addr : Nat) (k : Recall), s.grant = some (.recallRead .header addr 64) → addr + 64 ≤ 0x100000 →
     s.tables.mode = .recalling → s.tables.recalling = some k → k.got = [] →
     exec (.recallReadComplete .fault) s =
       .next { s with
         grant := none
         tables := { s.tables with
           clock := 0, synced := false, advancing := true
           recalling := some { todo := (List.finRange 16).map .strings, got := [], resumed := false } } }) ∧
  (∀ (s : State) (addr : Nat) (k : Recall) (answer : MemAnswer), s.grant = some (.recallRead (.strings 15) addr 256) →
     addr + 256 ≤ 0x100000 → s.tables.mode = .recalling → s.tables.recalling = some k → k.got.length = 15 →
     let u := s.tables
     let last := match answer with | .ok => some (s.mem.takeBytes addr 256).1 | .fault => none
     let record (n : Str) : List Byte :=
       match (k.got ++ [last]).getD (n.val / 8) none with | some l => slice l (32 * (n.val % 8)) 32 | none => []
     let valid (n : Str) : Prop :=
       (k.got ++ [last]).getD (n.val / 8) none ≠ none ∧ checkHolds (record n) = true ∧
         (byteAt (record n) 0).toNat = n.val ∧ (byteAt (record n) 1).toNat ≤ 4 ∧ (byteAt (record n) 2).toNat ≤ 6 ∧
         (byteAt (record n) 3).toNat ≤ 2
     let active (n : Str) : Prop := valid n ∧ byteAt (record n) 2 ≠ 0
     let first (n : Str) (c : Cab) : Prop :=
       active n ∧ u.owner n = some c ∧
         ∀ m d, m < n → active m → u.owner m = some d → u.groupOf d ≠ u.groupOf c
     ∃ t, exec (.recallReadComplete answer) s = .next t ∧ t.grant = none ∧
       t.tables.recalling = some { todo := [.commands 0, .commands 1], got := [], resumed := k.resumed } ∧
       t.tables.cabs = u.cabs ∧ t.tables.visits = u.visits ∧ t.tables.orders = u.orders ∧ t.tables.clock = u.clock ∧
       (∀ n c, first n c → (t.tables.grp (u.groupOf c)).underTest = some n) ∧
       ∀ n,
         let l := record n
         let e := t.tables.str n
         let block := BitVec.ofNat 16 (u.limit (·.capacities.at' n))
         (¬ valid n →
           e = { StringEntry.reset with
             install := u.clock, rated := if (u.owner n).isSome = true then block else 0 }) ∧
         (valid n →
           e.rated = (if 10 ≤ (word16At l 4).toNat ∧ (word16At l 4).toNat ≤ 3000 then word16At l 4 else block) ∧
           e.install = word32At l 0x10 ∧ e.discharged = word32At l 8 ∧ e.thermal = word32At l 0xC ∧
           e.deepCount = byteAt l 6 ∧ e.episode = (byteAt l 7).getLsbD 0 ∧
           e.lastCapacity = (if (byteAt l 7).getLsbD 1 then some (word16At l 0x18) else none) ∧
           e.lastSeq = (if (byteAt l 7).getLsbD 2 then some (byteAt l 0x1A) else none) ∧
           e.remainder = (byteAt l 7).extractLsb' 3 3 ∧ orMode e.lastMode = byteAt l 0x1B ∧
           e.test.charge = word32At l 0x14 ∧ e.test.suspensions = (byteAt l 3).toNat ∧
           e.test.starter.code = byteAt l 0x1C ∧ e.test.awaitFloor = none ∧ e.test.awaitSup = none ∧
           e.usable = e.usableNow ∧
           e.age =
             (match (byteAt l 1).toNat with
               | 0 => .unverified
               | 1 => if u.meetsDue e then .due else if u.meetsWatch e then .watch else .healthy
               | 2 => if u.meetsDue e then .due else .watch
               | 3 => .due
               | _ => .retired)) ∧
         (valid n → byteAt l 2 = 0 →
           e.test.state = .idle ∧ e.test.result.code = byteAt l 0x1D ∧ e.test.cause.code = byteAt l 0x1E) ∧
         (active n →
           e.test.result = .aborted ∧ e.test.cause = .reset ∧ (e.test.state = .stopping ↔ ∃ c, first n c) ∧
             (e.test.state = .idle ↔ ¬ ∃ c, first n c))) ∧
  ∀ (s : State) (addr : Nat) (k : Recall) (before : Option (List Byte)) (answer : MemAnswer),
    s.grant = some (.recallRead (.commands 1) addr 256) → addr + 256 ≤ 0x100000 → s.tables.mode = .recalling →
    s.tables.recalling = some k → k.got = [before] →
    let u := s.tables
    let last := match answer with | .ok => some (s.mem.takeBytes addr 256).1 | .fault => none
    let slot (c : Cab) : Option (List Byte) :=
      (if c.val < 16 then before else last).map fun l => slice l (16 * (c.val % 16)) 16
    let stops (n : Str) (c : Cab) (p : Pos) : Prop := (u.str n).test.state = .stopping ∧ u.place n = some (c, p)
    ∃ t, exec (.recallReadComplete answer) s = .next t ∧ t.grant = none ∧
      t.tables.recalling =
        some { todo := [.orders, .orderStates, .spentList, .visits], got := [], resumed := k.resumed } ∧
      (∀ n, (u.str n).test.state ≠ .stopping → t.tables.str n = u.str n) ∧
      (∀ c,
        (t.tables.cab c).lastSeq = (slot c).map (byteAt · 0) ∧ (t.tables.cab c).lastCmd = none ∧
        (t.tables.cab c).outstanding = false ∧ (t.tables.cab c).machine = (u.cab c).machine ∧
        ((∀ n p, ¬ stops n c p) →
          (t.tables.cab c).supSeq = (slot c).map (byteAt · 8) ∧ (t.tables.cab c).supAwaited = false ∧
            (t.tables.cab c).cmdTimer = (u.cab c).cmdTimer)) ∧
      ∀ n c p, stops n c p → (∀ m q, stops m c q → m = n) →
        let issued : Byte := match slot c with | some l => byteAt l 8 + 1 | none => 0
        (t.tables.cab c).supSeq = some issued ∧ (t.tables.cab c).supCmd = some (.testStop, p) ∧
          (t.tables.cab c).supAwaited = true ∧ (t.tables.cab c).cmdTimer = some (u.limit (·.commandTime)) ∧
          (t.tables.str n).test = { (u.str n).test with awaitSup := some issued } ∧
          (t.tables.grp (u.groupOf c)).testTimer = some (60 * u.limit (·.testMinutes))

/-- R180: the last ring read ends recall: the part runs, no recall is left, every part record is marked, but one that R182 (1)
keeps out (the drain alone bars a record, and RESET alone ends it: the model's choice, notes/assumptions/43.md); the flush timer is started; every
present cabinet is LEARNING, STALE and without holder, with no report.

R178: step 5, at its last read: the spent list, the work orders and the visits from their records, each IN_USE number and
each ended visit's number joining the spent list. Of this the model's own choices are: where two IN_USE orders name a console,
the lowest slot's number (notes/assumptions/25.md); the IN_USE numbers joining in ascending slot number
(notes/assumptions/46.md); the zeros of the absent fields of an EMPTY order and a NONE visit (notes/assumptions/45.md); and, its
reading, an unlisted end reason code kept as its byte (notes/assumptions/5.md).

R179: step 6. A usable journal header: the ring is read next; a consumed index that consumes an entry marks the journal header
urgent (R163), before the ring read: the model's reading (notes/assumptions/47.md). At the last ring read the journal copy holds each unconsumed entry
as the ring has it, or given up with severity WARNING. A header that is not usable ends recall without the ring: LOST first,
then the held entries, then START, from sequence 0 on. ATTN follows the copy (R170), in which a severity above 03h ranks by its
number: the model's choice (notes/assumptions/39.md). -/
def Obligations.LastRingReadEndsRecall : Prop :=
  (∀ (s : State) (addr : Nat) (k : Recall) (b : MemAnswer), s.grant = some (.recallRead (.ring 15) addr 256) →
     addr + 256 ≤ 0x100000 → s.tables.mode = .recalling → s.tables.recalling = some k → s.tables.active ≠ none →
     ∃ t, exec (.recallReadComplete b) s = .next t ∧ t.grant = none ∧ t.tables.mode = .running ∧
       t.tables.recalling = none ∧ t.tables.active = s.tables.active ∧
       t.tables.writer.flushTimer = some (s.tables.limit (·.flushTime)) ∧
       (∀ r ∈ allRecords, r ∉ s.tables.writer.barred → t.tables.writer.inUrgent r = true) ∧
       (∀ c, s.tables.present c = true →
         (t.tables.cab c).machine = .learning ∧ (t.tables.cab c).fresh = false ∧ (t.tables.cab c).holder = none ∧
           (t.tables.cab c).report = none ∧ (t.tables.cab c).staleTimer = none) ∧
       t.tables.clock = s.tables.clock ∧ t.tables.visits = s.tables.visits ∧ t.tables.orders = s.tables.orders) ∧
  (∀ (s : State) (addr : Nat) (k : Recall) (slots states places : Option (List Byte)) (answer : MemAnswer),
     s.grant = some (.recallRead .visits addr 256) → addr + 256 ≤ 0x100000 → s.tables.mode = .recalling →
     s.tables.recalling = some k → k.got = [slots, states, places] →
     let u := s.tables
     let last := match answer with | .ok => some (s.mem.takeBytes addr 256).1 | .fault => none
     let orderRec (n : Slot) : Option (List Byte) :=
       (states.map fun l => slice l (16 * n.val) 16).filter fun r =>
         checkHolds r && decide ((byteAt r 0).toNat ≤ 4)
     let terms (n : Slot) (r : List Byte) : Option (List Byte) :=
       (slots.map fun l => slice l (32 * n.val) 32).filter fun l => checkHolds l && word32At l 4 == word32At r 4
     let order (n : Slot) : Order :=
       match orderRec n with
       | none => .reset
       | some r =>
         match (byteAt r 0).toNat, terms n r with
         | 2, _ | 3, _ => { Order.reset with state := .spent, number := word32At r 4 }
         | 1, some l | 4, some l =>
           { state := if byteAt r 0 = 1 then .offered else .withdrawn, number := word32At l 4, scope := word32At l 8
             perms := byteAt l 1, windowStart := word32At l 12, windowEnd := word32At l 16, maxMinutes := word16At l 2
             bound := none }
         | _, _ => .reset
     let inUse (n : Slot) : Option (List Byte) := (orderRec n).filter fun r => byteAt r 0 == 2
     let named (t : Con) : Option Word32 :=
       (allSlots.filterMap inUse).find? (fun r => byteAt r 1 == byteOf t.val) |>.map (word32At · 4)
     let visitRec (t : Con) : Option (List Byte) :=
       (last.map fun l => slice l (64 * t.val) 64).filter fun r => checkHolds r && decide ((byteAt r 0).toNat ≤ 3)
     let restored (t : Con) : Visit :=
       match visitRec t with
       | none => .reset
       | some l =>
         { state := (VisitState.ofCode (byteAt l 0).toNat).getD .none, order := word32At l 4, badge := word32At l 8
           scope := word32At l 0xC, perms := byteAt l 2, openTime := word32At l 0x10, activity := word32At l 0x14
           reason := EndReason.ofCode (byteAt l 1)
           lastReq := if (byteAt l 0x1B).getLsbD 0 then some (byteAt l 3) else none
           lastResult :=
             if (byteAt l 0x1B).getLsbD 1 then some ⟨byteAt l 0x18, byteAt l 0x19, byteAt l 0x1A⟩ else none
           warnTimer := none, endTimer := none, durTimer := none }
     let ended (t : Con) : Option Word32 := if (restored t).state.isOpen then some (restored t).order else named t
     let joins : List Word32 :=
       (((List.range 16).map fun i => word32At (places.getD []) (4 * i)).filter (· != 0)) ++
         (allSlots.filterMap inUse).map (word32At · 4) ++ allConsoles.filterMap ended
     ∃ t, exec (.recallReadComplete answer) s = .next t ∧ t.grant = none ∧
       t.tables.recalling = some { todo := [.journalHeader, .consumedIndex], got := [], resumed := k.resumed } ∧
       t.tables.cabs = u.cabs ∧ t.tables.groups = u.groups ∧ t.tables.strings = u.strings ∧
       t.tables.clock = u.clock ∧ (∀ n, t.tables.ord n = order n) ∧
       (∀ x, t.tables.vis x =
         match ended x with
         | some q => { restored x with state := .ended, reason := .reset, order := q }
         | none => restored x) ∧
       t.tables.spent = joins.foldl spentJoin u.spent) ∧
  (∀ (s : State) (addr : Nat) (k : Recall) (header : Option (List Byte)) (answer : MemAnswer),
     s.grant = some (.recallRead .consumedIndex addr 2) → addr + 2 ≤ 0x100000 → s.tables.mode = .recalling →
     s.tables.recalling = some k → k.got = [header] →
     let u := s.tables
     let last := match answer with | .ok => some (s.mem.takeBytes addr 2).1 | .fault => none
     let usable : Prop := ∃ l, header = some l ∧ (word16At l 4).toNat ≤ 255 ∧ (word16At l 6).toNat ≤ 256
     (∀ l, header = some l → usable →
       let found : JHead :=
         { nextSeq := word32At l 0, nextPos := byteAt l 4, unconsumed := (word16At l 6).toNat, lost := false }
       let gone := match last with | some i => (found.distance (word16At i 0).toNat).getD 0 | none => 0
       let w := u.writer
       exec (.recallReadComplete answer) s =
         .next { s with
           grant := none
           mem := match answer with | .ok => (s.mem.takeBytes addr 2).2 | .fault => s.mem
           tables := { u with
             writer :=
               if 0 < gone ∧ u.active ≠ none ∧ .journalHeader ∉ w.barred ∧ w.inUrgent .journalHeader = false then
                 { w with
                   lazySet := w.lazySet.erase .journalHeader
                   urgent := w.urgent ++ [⟨.journalHeader, w.stamp⟩]
                   stamp := w.stamp + 1 }
               else w
             recalling := some
               { todo := (List.finRange 16).map .ring, got := [header, last], resumed := k.resumed } } }) ∧
     (¬ usable → u.active ≠ none → u.writer.head = none → u.writer.pending = [] → u.writer.heldDrop = false →
       u.writer.held.length ≤ 30 → (∀ g, (u.grp g).underTest = none) →
       ∃ t, exec (.recallReadComplete answer) s = .next t ∧ t.grant = none ∧ t.tables.mode = .running ∧
         t.tables.recalling = none ∧ t.tables.lastConsumed = some 0 ∧
         (∀ r ∈ allRecords, r ∉ u.writer.barred → t.tables.writer.inUrgent r = true) ∧
         t.tables.writer.flushTimer = some (u.limit (·.flushTime)) ∧ t.tables.writer.held = [] ∧
         let n := u.writer.held.length + 2
         let kinds : List Byte := 0x06 :: u.writer.held.map (·.entry.kind.code) ++ [0x01]
         t.tables.writer.head =
             some { nextSeq := BitVec.ofNat 32 n, nextPos := BitVec.ofNat 8 n, unconsumed := n, lost := false } ∧
           t.tables.writer.copy.map (fun e => (e.pos, e.entry.seq, e.entry.kind)) =
             kinds.zipIdx.map (fun x => (BitVec.ofNat 8 x.2, BitVec.ofNat 32 x.2, x.1)) ∧
           (∀ c, u.present c = true → (t.tables.cab c).machine = .learning ∧ (t.tables.cab c).fresh = false))) ∧
  ∀ (s : State) (addr : Nat) (k : Recall) (l : List Byte) (index : Option (List Byte)) (ring : Got) (b : Block)
      (answer : MemAnswer),
    s.grant = some (.recallRead (.ring 15) addr 256) → addr + 256 ≤ 0x100000 → s.tables.mode = .recalling →
    s.tables.recalling = some k → s.tables.active = some b → k.got = some l :: index :: ring → ring.length = 15 →
    (word16At l 4).toNat ≤ 255 → (word16At l 6).toNat ≤ 256 →
    let last := match answer with | .ok => some (s.mem.takeBytes addr 256).1 | .fault => none
    let count := (word16At l 6).toNat
    let found : JHead :=
      { nextSeq := word32At l 0, nextPos := byteAt l 4, unconsumed := count, lost := false }
    let gone := match index with | some i => (found.distance (word16At i 0).toNat).getD 0 | none => 0
    let left := count - gone
    let oldest : Byte := byteAt l 4 - BitVec.ofNat 8 left
    ∃ t, exec (.recallReadComplete answer) s = .next t ∧ t.tables.lastConsumed = some oldest ∧
      (t.tables.writer.attn = true ↔
        t.tables.writer.latch = true ∨ ∃ e ∈ t.tables.writer.copy, b.attention ≤ e.entry.severity.toNat) ∧
      ∀ i, i < left →
        let pos : Byte := oldest + BitVec.ofNat 8 i
        let seq : Word32 := word32At l 0 - BitVec.ofNat 32 left + BitVec.ofNat 32 i
        let held : Option (List Byte) :=
          ((ring ++ [last]).getD (pos.toNat / 16) none).map fun x => slice x (16 * (pos.toNat % 16)) 16
        ∃ e, t.tables.writer.copy[i]? = some e ∧ e.pos = pos ∧ e.entry.seq = seq ∧
          match held.filter (fun x => word32At x 0 == seq) with
          | some x =>
            e.givenUp = false ∧ e.entry.time = word32At x 4 ∧ e.entry.kind = byteAt x 8 ∧
              e.entry.severity = byteAt x 9 ∧ e.entry.subject = byteAt x 10 ∧ e.entry.detail = byteAt x 11 ∧
              e.entry.value = word32At x 12
          | none => e.givenUp = true ∧ e.entry.severity = 0x02

/-! ## Time (03 section 3.7; 04 section 4.3; 05 section 5.4; 07 section 7.7; 08 section 8.5; 09 section 9.3) -/

/-- R62: one second of the clock input: the clock is one more modulo 2^32 and keeps its mark, every running timer is one
second nearer its expiry, and nothing else of the units changes; before recall has set the clock nothing changes. The
writer gets the header's lazy mark and nothing else (R62 (2)), where the header is not held back. That a header which faulted
twice in the drain stays held back, in HALTED too, is the model's choice (notes/assumptions/43.md). A running timer whose expiry
is still to come at 0 stays there: the model's choice (notes/assumptions/11.md). -/
def Obligations.ClockAdvanceCountsOneSecond : Prop :=
  ∀ s : State, let u := s.tables
    let tick (t : Timer) : Timer := t.map (· - 1)
    ∃ t, exec .clockAdvance s = .next t ∧ s.SameButTables t ∧
      if u.advancing = true then
        t.tables.clock = u.clock + 1 ∧ t.tables.synced = u.synced ∧
        (∀ c, t.tables.cab c =
          { u.cab c with staleTimer := tick (u.cab c).staleTimer, cmdTimer := tick (u.cab c).cmdTimer }) ∧
        (∀ g, t.tables.grp g = { u.grp g with testTimer := tick (u.grp g).testTimer }) ∧
        (∀ x, t.tables.vis x =
          { u.vis x with
            warnTimer := tick (u.vis x).warnTimer, endTimer := tick (u.vis x).endTimer
            durTimer := tick (u.vis x).durTimer }) ∧
        t.tables.strings = u.strings ∧
        t.tables.orders = u.orders ∧ t.tables.spent = u.spent ∧ t.tables.active = u.active ∧
        t.tables.mode = u.mode ∧ t.tables.ready = u.ready ∧ t.tables.key = u.key ∧ t.tables.apply = u.apply ∧
        t.tables.lock = u.lock ∧ t.tables.advancing = true ∧ t.tables.lastConsumed = u.lastConsumed ∧
        t.tables.genLow = u.genLow ∧ t.tables.genHigh = u.genHigh ∧ t.tables.recalling = u.recalling ∧
        t.tables.writer =
          { u.writer with
            flushTimer := tick u.writer.flushTimer
            lazySet :=
              if u.heldBack .header = true ∨ u.mode = .draining ∨ u.writer.placed .header = true then u.writer.lazySet
              else u.writer.lazySet ++ [.header] }
      else t = s

/-- R71: at its expiry a cabinet is STALE with its timer stopped; its report, load, machine and holder stay, and so do
the other cabinets', the visits and the orders.

R137 (1): a live test of one of its strings is stopped, ABORTED with cause CABINET, unless the re-evaluation that comes before
has stopped it (R136); its TEST_STOP is issued and awaited. -/
def Obligations.StaleExpiryMakesTheCabinetStale : Prop :=
  (∀ (s : State) (c : Cab), (s.tables.cab c).staleTimer = some 0 → let u := s.tables
    ∃ t, exec (.staleTimerExpiry c) s = .next t ∧ s.SameButTables t ∧
      (t.tables.cab c).fresh = false ∧ (t.tables.cab c).staleTimer = none ∧
      (t.tables.cab c).report = (u.cab c).report ∧ (t.tables.cab c).load = (u.cab c).load ∧
      (t.tables.cab c).machine = (u.cab c).machine ∧ (t.tables.cab c).holder = (u.cab c).holder ∧
      (t.tables.cab c).lastSeq = (u.cab c).lastSeq ∧
      (∀ d, d ≠ c → (t.tables.cab d).fresh = (u.cab d).fresh ∧ (t.tables.cab d).machine = (u.cab d).machine ∧
        (t.tables.cab d).staleTimer = (u.cab d).staleTimer ∧ (t.tables.cab d).report = (u.cab d).report ∧
        (t.tables.cab d).load = (u.cab d).load ∧ (t.tables.cab d).holder = (u.cab d).holder) ∧
      t.tables.visits = u.visits ∧ t.tables.orders = u.orders ∧ t.tables.spent = u.spent ∧ t.tables.clock = u.clock) ∧
  ∀ (s : State) (c : Cab) (n : Str) (p : Pos), (s.tables.cab c).staleTimer = some 0 → s.tables.Interlocked →
    let u := s.tables
    let g := u.groupOf c
    let x := (u.str n).test
    u.place n = some (c, p) → x.state.live = true →
    ∃ t, exec (.staleTimerExpiry c) s = .next t ∧
      let y := (t.tables.str n).test
      let conditions := t.tables.suspendCondition g
      y.state = .stopping ∧ y.result = .aborted ∧
        y.cause =
          (if conditions = true ∧ x.state = .requested then .conditions
          else if conditions = true ∧ (x.state = .running ∨ x.state = .resumePending) ∧ x.suspensions = 2 then
            .suspendLimit
          else .cabinet) ∧
        y.awaitSup = (t.tables.cab c).supSeq ∧ y.awaitFloor = x.awaitFloor ∧ y.charge = x.charge ∧
        (t.tables.cab c).supCmd = some (.testStop, p) ∧ (t.tables.cab c).supAwaited = true ∧
        (t.tables.cab c).cmdTimer = some (u.limit (·.commandTime)) ∧ (t.tables.grp g).underTest = some n

/-- R89 (1) to (4): at its command timer's expiry no command is outstanding; XFER_OUT is NORMAL with no holder, XFER_BACK
is BYPASS with its holder, any other machine stays. The floor sequence stays. A floor command of the cabinet in flight between
its grant and its completion is marked, and its take leaves it not outstanding (R86 (2)); nothing else of a grant changes.

R139: with the machine in neither, the expiry reaches the cabinet's active test: one that awaits the cabinet becomes
STOPPING, ABORTED with cause TIMEOUT, its TEST_STOP issued and awaited; a STOPPING one returns to IDLE; a RUNNING or
SUSPENDED one stays. -/
def Obligations.CommandExpiryTimesTheTransferOut : Prop :=
  (∀ (s : State) (c : Cab), (s.tables.cab c).cmdTimer = some 0 → let u := s.tables
     let e := u.cab c
     ∃ t, exec (.commandTimerExpiry c) s = .next t ∧ t.queues = s.queues ∧ t.mem = s.mem ∧ t.sent = s.sent ∧
       t.rotation = s.rotation ∧
       t.grant =
         (match s.grant with
           | some (.port f) =>
             some (.port { f with
               take := match f.take with
                 | .floor d q cmd undo expired => .floor d q cmd undo (expired || decide (d = c))
                 | k => k })
           | g => g) ∧
       (t.tables.cab c).outstanding = false ∧ (t.tables.cab c).lastSeq = e.lastSeq ∧
       (t.tables.cab c).machine =
         (match e.machine with | .xferOut => .normal | .xferBack => .bypass | m => m) ∧
       (t.tables.cab c).holder = (if e.machine = .xferOut then none else e.holder) ∧
       (∀ d, d ≠ c → (t.tables.cab d).machine = (u.cab d).machine ∧ (t.tables.cab d).holder = (u.cab d).holder ∧
         (t.tables.cab d).outstanding = (u.cab d).outstanding) ∧
       t.tables.visits = u.visits ∧ t.tables.orders = u.orders ∧ t.tables.spent = u.spent ∧ t.tables.clock = u.clock) ∧
  ∀ (s : State) (c : Cab) (n : Str) (p : Pos), (s.tables.cab c).cmdTimer = some 0 → s.tables.place n = some (c, p) →
    (s.tables.cab c).machine ≠ .xferOut → (s.tables.cab c).machine ≠ .xferBack →
    (∀ m ∈ s.tables.stringsOf c, m ≠ n → (s.tables.str m).test.state = .idle) →
    let u := s.tables
    let x := (u.str n).test
    let issued := nextSeq (u.cab c).supSeq
    ∃ t, exec (.commandTimerExpiry c) s = .next t ∧
      (x.state = .requested ∨ x.state = .suspendPending ∨ x.state = .resumePending →
        (t.tables.str n).test =
            { x with state := .stopping, result := .aborted, cause := .timeout, awaitSup := some issued } ∧
          (t.tables.cab c).supSeq = some issued ∧ (t.tables.cab c).supCmd = some (.testStop, p) ∧
          (t.tables.cab c).supAwaited = true ∧ (t.tables.cab c).cmdTimer = some (u.limit (·.commandTime))) ∧
      (x.state = .stopping →
        (t.tables.str n).test = { x with state := .idle, awaitFloor := none, awaitSup := none } ∧
          (t.tables.grp (u.groupOf c)).underTest = none ∧ (t.tables.cab c).cmdTimer = none) ∧
      (x.state = .running ∨ x.state = .suspended ∨ x.state = .idle →
        (t.tables.str n).test = x ∧ (t.tables.cab c).cmdTimer = none)

/-- R138: at the group test timer's expiry a live test is stopped, ABORTED with cause DURATION, its TEST_STOP issued and
awaited (R134); a STOPPING test returns to IDLE and the group has no string under test. -/
def Obligations.GroupTestExpiryStopsOrEndsTheTest : Prop :=
  ∀ (s : State) (g : Grp) (n : Str) (c : Cab) (p : Pos), (s.tables.grp g).testTimer = some 0 →
    (s.tables.grp g).underTest = some n → s.tables.place n = some (c, p) → s.tables.groupOf c = g →
    let u := s.tables
    let x := (u.str n).test
    (x.state.live = true →
      ∃ t, exec (.groupTestTimerExpiry g) s = .next t ∧ s.SameButTables t ∧
        (t.tables.grp g).testTimer = none ∧ (t.tables.grp g).underTest = some n ∧
        (t.tables.str n).test =
          { x with
            state := .stopping, result := .aborted, cause := .duration, awaitSup := some (nextSeq (u.cab c).supSeq) } ∧
        t.tables.cab c =
          { u.cab c with
            supSeq := some (nextSeq (u.cab c).supSeq), supCmd := some (.testStop, p), supAwaited := true
            cmdTimer := some (u.limit (·.commandTime)) } ∧
        t.tables.visits = u.visits ∧ t.tables.orders = u.orders) ∧
    (x.state = .stopping →
      ∃ t, exec (.groupTestTimerExpiry g) s = .next t ∧ s.SameButTables t ∧
        (t.tables.grp g).testTimer = none ∧ (t.tables.grp g).underTest = none ∧
        (t.tables.str n).test =
          { x with state := .idle, awaitFloor := none, awaitSup := none } ∧
        t.tables.visits = u.visits ∧ t.tables.orders = u.orders)

/-- R154, R157: the expiry of the idle end timer or of the duration timer ends an open visit: ENDED with its reason, no
timer running, its number in the spent list, its order SPENT and unbound, no cabinet held by its console; the machines,
the strings and the other visits stay. A visit that is not open only loses its timer.

R153: the expiry of the idle warn timer of an OPEN visit makes it WARNED; nothing else of the units changes. -/
def Obligations.VisitTimersWarnAndEndTheVisit : Prop :=
  (∀ (s : State) (x : Con) (i : Instr) (reason : EndReason), let u := s.tables
     (i = .idleEndTimerExpiry x ∧ reason = .idle ∧ (u.vis x).endTimer = some 0 ∨
       i = .durationTimerExpiry x ∧ reason = .duration ∧ (u.vis x).durTimer = some 0) →
     ∃ t, exec i s = .next t ∧ s.SameButTables t ∧ (∀ y, y ≠ x → t.tables.vis y = u.vis y) ∧
       t.tables.strings = u.strings ∧ t.tables.groups = u.groups ∧ (∀ c, (t.tables.cab c).machine = (u.cab c).machine) ∧
       if (u.vis x).state.isOpen = true then
         t.tables.vis x =
             { u.vis x with state := .ended, reason, warnTimer := none, endTimer := none, durTimer := none } ∧
           t.tables.spent = spentJoin u.spent (u.vis x).order ∧
           (∀ c, (t.tables.cab c).holder = if (u.cab c).holder = some x then none else (u.cab c).holder) ∧
           ∀ n, u.boundSlot x = some n → t.tables.ord n = { u.ord n with state := .spent, bound := none }
       else
         t.tables.vis x =
             (if i = .idleEndTimerExpiry x then { u.vis x with endTimer := none }
               else { u.vis x with durTimer := none }) ∧
           t.tables.cabs = u.cabs ∧ t.tables.orders = u.orders ∧ t.tables.spent = u.spent) ∧
  (∀ (s : State) (x : Con), (s.tables.vis x).warnTimer = some 0 → let u := s.tables
     let v : Visit := { u.vis x with warnTimer := none }
     ∃ t, exec (.idleWarnTimerExpiry x) s = .next t ∧ s.SameButTables t ∧
       t.tables.SameButWriter
         (u.setVis x (if v.state = .opened then { v with state := .warned } else v)))

/-- R147: a number joins the spent list at its tail; with 16 held the oldest leaves; a number already held changes
nothing. -/
def Obligations.SpentListKeepsTheLastSixteen : Prop :=
  ∀ (l : List Word32) (n : Word32), l.length ≤ 16 →
    (n ∈ l → spentJoin l n = l) ∧
    (n ∉ l → l.length < 16 → spentJoin l n = l ++ [n]) ∧
    (n ∉ l → ∀ oldest rest, l = oldest :: rest → l.length = 16 → spentJoin l n = rest ++ [n])

/-- R165: the expiry of the flush timer moves the lazy set to the tail of the urgent set in its order and restarts the
timer with the flush time. -/
def Obligations.FlushExpiryMovesTheLazySet : Prop :=
  ∀ s : State, s.tables.writer.flushTimer = some 0 → let w := s.tables.writer
    ∃ t, exec .flushTimerExpiry s = .next t ∧ s.SameButTables t ∧ s.tables.SameButWriter t.tables ∧
      t.tables.writer.lazySet = [] ∧
      t.tables.writer.urgent.map (·.what) = w.urgent.map (·.what) ++ w.lazySet ∧
      t.tables.writer.flushTimer = some (s.tables.limit (·.flushTime)) ∧
      t.tables.writer.pending = w.pending ∧ t.tables.writer.copy = w.copy ∧ t.tables.writer.head = w.head

/-! ## The lines (01 section 1.8; 08 section 8.1; 10 sections 10.1, 10.3) -/

/-- R142: a change to LOCKED ends every open visit with reason KEY, and no cabinet keeps the holder of one; a change to
SERVICE changes the key state alone. With RESET asserted only the line is seen: the model's form
(notes/assumptions/13.md). -/
def Obligations.KeyToLockedEndsEveryVisit : Prop :=
  ∀ s : State, let u := s.tables
    (u.mode ≠ .inReset →
      (u.key = .service →
        ∃ t, exec .keyToLocked s = .next t ∧ t.keyLine = .locked ∧ t.tables.key = .locked ∧ t.queues = s.queues ∧
          t.grant = s.grant ∧ t.mem = s.mem ∧ t.sent = s.sent ∧
          (∀ x, (t.tables.vis x) =
            if (u.vis x).state.isOpen = true then
              { u.vis x with state := .ended, reason := .key, warnTimer := none, endTimer := none, durTimer := none }
            else u.vis x) ∧
          (∀ c x, (u.vis x).state.isOpen = true → (t.tables.cab c).holder ≠ some x) ∧
          t.tables.strings = u.strings ∧ t.tables.groups = u.groups) ∧
      exec .keyToService s = .next { s with keyLine := .service, tables := { u with key := .service } }) ∧
    (u.mode = .inReset →
      exec .keyToLocked s = .next { s with keyLine := .locked } ∧
        exec .keyToService s = .next { s with keyLine := .service })

/-- R23: RESET empties the queues, ends the grant and puts every table at its reset value; record memory keeps what it
held and what the operations answered OK had written (R14), but for the one write in progress, whose bytes may hold anything;
a read in progress leaves memory as it was, and an operation not yet issued writes nothing. How many had been answered OK is
open, and this holds for whatever number it was (notes/assumptions/16.md). RESET keeps the key state until its release samples
the line: the model's reading (notes/assumptions/13.md).

R23, R142, R173: the release of RESET takes the key state from the line and begins recall at step 1, with its four
block reads to make; a part that is not in reset has no edge. -/
def Obligations.ResetKeepsRecordMemoryAndReleaseRecalls : Prop :=
  (∀ s : State, s.mem.wf = true →
     ∃ m k, exec .reset s =
         .next { s with
           queues := .reset, rotation := .internal, grant := none, mem := m, tables := .reset s.tables.key } ∧
       (s.grant = none → m = s.mem) ∧
       (∀ g before o after, s.grant = some g → g.ops = before ++ o :: after →
         (before.length = k ∨ before.length ≤ k ∧ after = []) →
         let covers (x : Nat) : MemOp → Prop
           | .write a bytes => a ≤ x ∧ x < a + bytes.length
           | .read _ _ => False
         ∀ x,
           (covers x o → m.look x = none) ∧
           (∀ a bytes l r, before = l ++ .write a bytes :: r → a ≤ x → x < a + bytes.length →
             (∀ q ∈ r ++ [o], ¬ covers x q) → m.look x = bytes[x - a]?) ∧
           ((∀ q ∈ before ++ [o], ¬ covers x q) → m.look x = s.mem.look x)) ∧
       (∀ j b addr bytes, s.grant = some (.writer j b addr bytes) →
         ∀ x, m.look x = if addr ≤ x ∧ x < addr + bytes.length then none else s.mem.look x) ∧
       ∀ f, s.grant = some (.port f) → f.acc.kind = .write → f.ops = [.write f.acc.addr f.acc.data] →
         ∀ x, m.look x = if f.acc.addr ≤ x ∧ x < f.acc.addr + f.acc.data.length then none else s.mem.look x) ∧
  (∀ s : State,
     (s.tables.mode = .inReset →
       exec .resetRelease s =
         .next { s with
           tables := { s.tables with
             key := s.keyLine, mode := .recalling
             recalling := some { todo := [.block 0, .block 1, .block 2, .block 3], got := [], resumed := false } } }) ∧
     (s.tables.mode ≠ .inReset → exec .resetRelease s = .next s))

/-- R181, R183: the assertion of PFW. While the part runs with a configuration it begins the drain: no apply, every visit
ended with reason POWER, the flush timer stopped, the lazy set moved to the tail of the urgent set in its order (behind what the
ends of the visits have marked first, which no longer stands in it), the header's place gone. In the NOMAP state and
during recall it halts, at once or at the completion of the operation in progress. While RESET is asserted, in the drain and
once halted only the line moves; while RESET is asserted this is the model's reading (notes/assumptions/17.md).

R182, R183, R21: the drain ends when the HALTED header has landed, or with its second FAULT, which sets the latch and creates
no entry; a recall that PFW found ends with its read, OK or FAULT, and in the NOMAP state the port access in flight completes
with its reply; the part is then HALTED with READY asserted. The deassertion of PFW leaves the part as it is. -/
def Obligations.PowerWarningDrainsAndEndsHalted : Prop :=
  (∀ s : State, s.pfwLine = false → let u := s.tables
     (u.mode = .running → u.active ≠ none →
       ∃ t, exec .pfwAssert s = .next t ∧ t.pfwLine = true ∧ t.tables.mode = .draining ∧ t.tables.apply = none ∧
         t.tables.active = u.active ∧ t.queues = s.queues ∧ t.grant = s.grant ∧ t.mem = s.mem ∧ t.sent = s.sent ∧
         t.tables.writer.flushTimer = none ∧ t.tables.writer.lazySet = [] ∧
         t.tables.writer.placed .header = false ∧
         (∀ r ∈ u.writer.lazySet, r ≠ .header → t.tables.writer.inUrgent r = true) ∧
         (u.writer.Sound →
           ∃ early : List RecId,
             (∀ r ∈ early, r = .journalHeader ∨ r = .spentList ∨ (∃ x, r = .visit x) ∨ (∃ n, r = .order n) ∨
               ∃ c, r = .cabinet c) ∧
             ((∀ x, (u.vis x).state.isOpen = false) → ∀ r ∈ early, r = .journalHeader) ∧
             t.tables.writer.urgent.map (·.what) =
               (u.writer.urgent.map (·.what) ++ early ++ u.writer.lazySet.filter (fun r => decide (r ∉ early))).filter
                 (fun r => decide (r ≠ .header))) ∧
         ∀ x, (t.tables.vis x) =
           if (u.vis x).state.isOpen = true then
             { u.vis x with state := .ended, reason := .power, warnTimer := none, endTimer := none, durTimer := none }
           else u.vis x) ∧
     (u.mode = .running → u.active = none →
       exec .pfwAssert s =
         .next { s with
           pfwLine := true
           tables :=
             if s.grant.any Grant.isPort = true then { u with apply := none, mode := .halting }
             else { u with apply := none, mode := .halted, ready := true } }) ∧
     (u.mode = .recalling →
       exec .pfwAssert s =
         .next { s with
           pfwLine := true
           tables :=
             if s.grant.any Grant.isRecall = true then { u with mode := .halting }
             else { u with mode := .halted, ready := true } }) ∧
     (u.mode = .inReset ∨ u.mode = .draining ∨ u.mode = .halting ∨ u.mode = .halted →
       exec .pfwAssert s = .next { s with pfwLine := true })) ∧
  ((∀ (s : State) (addr : Nat) (bytes : List Byte) (b : Bool), s.grant = some (.writer .haltedHeader b addr bytes) →
     1 ≤ bytes.length → bytes.length ≤ 256 → addr + bytes.length ≤ 0x100000 →
     ∃ t, exec (.writerWriteComplete .ok) s = .next t ∧ t.tables.mode = .halted ∧ t.tables.ready = true ∧
       t.mem = s.mem.putBytes addr bytes ∧ t.queues = s.queues ∧ t.sent = s.sent) ∧
   (∀ (s : State) (addr : Nat) (bytes : List Byte), s.grant = some (.writer .haltedHeader true addr bytes) →
     1 ≤ bytes.length → bytes.length ≤ 256 → addr + bytes.length ≤ 0x100000 →
     ∃ t, exec (.writerWriteComplete .fault) s = .next t ∧ t.tables.mode = .halted ∧ t.tables.ready = true ∧
       t.mem = s.mem.spoil addr bytes.length ∧ t.queues = s.queues ∧ t.sent = s.sent ∧
       t.tables.writer.latch = true ∧ t.tables.writer.retry = none ∧
       t.tables.writer.head = s.tables.writer.head ∧ t.tables.writer.copy = s.tables.writer.copy ∧
       t.tables.writer.pending = s.tables.writer.pending ∧ t.tables.writer.held = s.tables.writer.held) ∧
   (∀ (s : State) (r : RecallRead) (addr n : Nat), s.grant = some (.recallRead r addr n) → 1 ≤ n → n ≤ 256 →
     addr + n ≤ 0x100000 → s.tables.mode = .halting →
     let halted : Tables := { s.tables with mode := .halted, ready := true }
     exec (.recallReadComplete .fault) s = .next { s with grant := none, tables := halted } ∧
       exec (.recallReadComplete .ok) s =
         .next { s with grant := none, mem := (s.mem.takeBytes addr n).2, tables := halted }) ∧
   (∀ (s : State) (f : InFlight) (answer : AccessAnswer), s.grant = some (.port f) →
     f.ops.all MemOp.inRange = true → s.tables.mode = .halting →
     let reply : Reply := if answer = .ok then f.reply (s.mem.performAll f.ops).1 else .refused .memfault none
     ∃ m u, exec (.portAccessComplete answer) s = .next (s.replied m u f.acc reply) ∧ u.mode = .halted ∧
       u.ready = true ∧ (f.take = .nothing → u = { s.tables with mode := .halted, ready := true })) ∧
   ∀ s : State, exec .pfwDeassert s = .next { s with pfwLine := false })

/-! ## What every step keeps -/

/-- Every invariant below holds at reset. -/
def Obligations.InvariantsHoldAtReset : Prop :=
  State.reset.mem.wf = true ∧ State.reset.QueuesOk ∧ State.reset.HeadInFlight ∧ State.reset.tables.Sound ∧
    State.reset.InMemory ∧ State.reset.Interlocked

/-- Record memory keeps its canonical form.

R14, R15, R23: no byte of record memory changes but at the completion of an access or of the writer's operation, answered OK or
FAULT, and at a reset, and then with a write in the grant in progress; it is a byte that a write of that grant covers. -/
def Obligations.EveryStepKeepsMemoryCanonical : Prop :=
  (∀ s t : State, s.mem.wf = true → step s = .next t → t.mem.wf = true) ∧
  ∀ (s t : State) (c : Instr) (x : Nat), exec c s = .next t → t.mem.look x ≠ s.mem.look x →
    ((∃ answer, c = .portAccessComplete answer) ∨ (∃ answer, c = .writerWriteComplete answer) ∨ c = .reset) ∧
      ∃ g a bytes, s.grant = some g ∧ .write a bytes ∈ g.ops ∧ (s.mem.wf = true → a ≤ x ∧ x < a + bytes.length)

/-- R6, R7: no port queue ever holds more than 4 accesses, each of them of its port and shaped, and a port access in
flight stays its queue's head. -/
def Obligations.EveryStepKeepsThePortQueues : Prop :=
  ∀ s t : State, s.QueuesOk → s.HeadInFlight → step s = .next t → t.QueuesOk ∧ t.HeadInFlight

/-- R13: every step leaves a port's queue and replies alone, or accepts an access at the tail, or answers the head with
one reply that carries its transaction number, or is the reset that discards the queue. -/
def Obligations.RepliesLeaveInTheOrderOfAcceptance : Prop :=
  ∀ (s t : State) (c : Instr) (p : Port), s.HeadInFlight → s.QueuesOk → exec c s = .next t →
    let replies (x : State) := x.sent.filter fun r => decide (r.1 = p)
    (t.queues.of p = s.queues.of p ∧ replies t = replies s) ∨
    (∃ a, t.queues.of p = s.queues.of p ++ [a] ∧ a.port = p ∧ replies t = replies s) ∨
    (∃ a rest r, s.queues.of p = a :: rest ∧ t.queues.of p = rest ∧
      replies t = replies s ++ [(p, Reply.frame r a.txn)]) ∨
    (c = .reset ∧ t.queues.of p = [] ∧ replies t = replies s)

/-- R147, R161, R163, R167, R168: the writer's lists and the spent list keep their bounds, no record has two places, and
the journal copy holds exactly the unconsumed entries, sequences and positions rising by one. The stamps of the urgent set
and of the pending list rise in their order, below the next one: of two joinings the earlier has the smaller stamp
(R164 (3)). -/
def Obligations.EveryStepKeepsTheJournalInOrder : Prop :=
  ∀ s t : State, s.tables.Sound → step s = .next t → t.tables.Sound

/-- R14, R24, R51: no step of the part stops. From a state whose queues, areas, reads and grant lie within record memory
and whose writer's lists are sound, every command has a next state, of which the same holds. -/
def Obligations.NoCommandStopsThePart : Prop :=
  ∀ s : State, s.InMemory → ∃ t, step s = .next t ∧ t.InMemory

/-- R30, R46, R61: the active configuration changes only when the last read of an apply is answered OK, when the fourth block
read of recall's first step is answered OK, and by reset; the lock changes only at that last read of an apply and by reset,
and reset alone clears it. -/
def Obligations.OnlyAppliesAndRecallChangeTheConfiguration : Prop :=
  ∀ (s t : State) (c : Instr), exec c s = .next t → c ≠ .reset →
    let endsApply : Prop :=
      c = .applyReadComplete .ok ∧
        ∃ r addr n a, s.grant = some (.loader r addr n) ∧ s.tables.apply = some a ∧ a.todo = []
    let endsStepOne : Prop := c = .recallReadComplete .ok ∧ ∃ addr n, s.grant = some (.recallRead (.block 3) addr n)
    (¬ endsApply → ¬ endsStepOne → t.tables.active = s.tables.active) ∧
    (¬ endsApply → t.tables.lock = s.tables.lock) ∧
    (s.tables.lock = true → t.tables.lock = true)

/-- R90, R128, R136, R137, 08 section 8.3: the interlocks hold after every step, and a FAULT answered to the access in flight
brings back nothing that breaks them. The active test of a string is the one test of its group: no group has two. A live one
stands in no group with a present member in XFER_OUT, BYPASS, XFER_BACK or UNSANCTIONED; no string has counted more than 2
suspensions; and open visits have disjoint scopes and different badges. -/
def Obligations.EveryStepKeepsTheInterlocks : Prop :=
  (∀ s t : State, s.Interlocked → step s = .next t → t.Interlocked) ∧
  ∀ u : Tables, u.Interlocked → ∀ (n m : Str) (c d : Cab) (p q : Pos), u.place n = some (c, p) →
    u.place m = some (d, q) → u.groupOf c = u.groupOf d → (u.str n).test.state.active = true →
    (u.str m).test.state.active = true → n = m
end

