-- ==== Sys2Proof/Laws/State.lean ====
section
/-! SUPPORT. What each update of a table entry, of the writer and of the tables leaves as it was: one lemma for each
field of `Tables` and `State` and each update, so that no proof unfolds a record update. -/

-- One theorem at a time: so many small proofs, elaborated side by side, ask for more threads than the check allows.
set_option Elab.async false

namespace Sys2Proof.Machine

/-! ## `Tables.setCab` -/

@[simp] theorem Tables.mode_setCab (u : Tables) (c : Cab) (e : CabEntry) : (u.setCab c e).mode = u.mode := rfl
@[simp] theorem Tables.ready_setCab (u : Tables) (c : Cab) (e : CabEntry) : (u.setCab c e).ready = u.ready := rfl
@[simp] theorem Tables.key_setCab (u : Tables) (c : Cab) (e : CabEntry) : (u.setCab c e).key = u.key := rfl
@[simp] theorem Tables.active_setCab (u : Tables) (c : Cab) (e : CabEntry) : (u.setCab c e).active = u.active := rfl
@[simp] theorem Tables.apply_setCab (u : Tables) (c : Cab) (e : CabEntry) : (u.setCab c e).apply = u.apply := rfl
@[simp] theorem Tables.lock_setCab (u : Tables) (c : Cab) (e : CabEntry) : (u.setCab c e).lock = u.lock := rfl
@[simp] theorem Tables.clock_setCab (u : Tables) (c : Cab) (e : CabEntry) : (u.setCab c e).clock = u.clock := rfl
@[simp] theorem Tables.synced_setCab (u : Tables) (c : Cab) (e : CabEntry) : (u.setCab c e).synced = u.synced := rfl
@[simp] theorem Tables.advancing_setCab (u : Tables) (c : Cab) (e : CabEntry) : (u.setCab c e).advancing = u.advancing := rfl
@[simp] theorem Tables.lastConsumed_setCab (u : Tables) (c : Cab) (e : CabEntry) : (u.setCab c e).lastConsumed = u.lastConsumed := rfl
@[simp] theorem Tables.genLow_setCab (u : Tables) (c : Cab) (e : CabEntry) : (u.setCab c e).genLow = u.genLow := rfl
@[simp] theorem Tables.genHigh_setCab (u : Tables) (c : Cab) (e : CabEntry) : (u.setCab c e).genHigh = u.genHigh := rfl
@[simp] theorem Tables.groups_setCab (u : Tables) (c : Cab) (e : CabEntry) : (u.setCab c e).groups = u.groups := rfl
@[simp] theorem Tables.strings_setCab (u : Tables) (c : Cab) (e : CabEntry) : (u.setCab c e).strings = u.strings := rfl
@[simp] theorem Tables.visits_setCab (u : Tables) (c : Cab) (e : CabEntry) : (u.setCab c e).visits = u.visits := rfl
@[simp] theorem Tables.orders_setCab (u : Tables) (c : Cab) (e : CabEntry) : (u.setCab c e).orders = u.orders := rfl
@[simp] theorem Tables.spent_setCab (u : Tables) (c : Cab) (e : CabEntry) : (u.setCab c e).spent = u.spent := rfl
@[simp] theorem Tables.recalling_setCab (u : Tables) (c : Cab) (e : CabEntry) : (u.setCab c e).recalling = u.recalling := rfl
@[simp] theorem Tables.writer_setCab (u : Tables) (c : Cab) (e : CabEntry) : (u.setCab c e).writer = u.writer := rfl

/-! ## `Tables.setGrp` -/

@[simp] theorem Tables.mode_setGrp (u : Tables) (g : Grp) (e : GroupEntry) : (u.setGrp g e).mode = u.mode := rfl
@[simp] theorem Tables.ready_setGrp (u : Tables) (g : Grp) (e : GroupEntry) : (u.setGrp g e).ready = u.ready := rfl
@[simp] theorem Tables.key_setGrp (u : Tables) (g : Grp) (e : GroupEntry) : (u.setGrp g e).key = u.key := rfl
@[simp] theorem Tables.active_setGrp (u : Tables) (g : Grp) (e : GroupEntry) : (u.setGrp g e).active = u.active := rfl
@[simp] theorem Tables.apply_setGrp (u : Tables) (g : Grp) (e : GroupEntry) : (u.setGrp g e).apply = u.apply := rfl
@[simp] theorem Tables.lock_setGrp (u : Tables) (g : Grp) (e : GroupEntry) : (u.setGrp g e).lock = u.lock := rfl
@[simp] theorem Tables.clock_setGrp (u : Tables) (g : Grp) (e : GroupEntry) : (u.setGrp g e).clock = u.clock := rfl
@[simp] theorem Tables.synced_setGrp (u : Tables) (g : Grp) (e : GroupEntry) : (u.setGrp g e).synced = u.synced := rfl
@[simp] theorem Tables.advancing_setGrp (u : Tables) (g : Grp) (e : GroupEntry) : (u.setGrp g e).advancing = u.advancing := rfl
@[simp] theorem Tables.lastConsumed_setGrp (u : Tables) (g : Grp) (e : GroupEntry) : (u.setGrp g e).lastConsumed = u.lastConsumed := rfl
@[simp] theorem Tables.genLow_setGrp (u : Tables) (g : Grp) (e : GroupEntry) : (u.setGrp g e).genLow = u.genLow := rfl
@[simp] theorem Tables.genHigh_setGrp (u : Tables) (g : Grp) (e : GroupEntry) : (u.setGrp g e).genHigh = u.genHigh := rfl
@[simp] theorem Tables.cabs_setGrp (u : Tables) (g : Grp) (e : GroupEntry) : (u.setGrp g e).cabs = u.cabs := rfl
@[simp] theorem Tables.strings_setGrp (u : Tables) (g : Grp) (e : GroupEntry) : (u.setGrp g e).strings = u.strings := rfl
@[simp] theorem Tables.visits_setGrp (u : Tables) (g : Grp) (e : GroupEntry) : (u.setGrp g e).visits = u.visits := rfl
@[simp] theorem Tables.orders_setGrp (u : Tables) (g : Grp) (e : GroupEntry) : (u.setGrp g e).orders = u.orders := rfl
@[simp] theorem Tables.spent_setGrp (u : Tables) (g : Grp) (e : GroupEntry) : (u.setGrp g e).spent = u.spent := rfl
@[simp] theorem Tables.recalling_setGrp (u : Tables) (g : Grp) (e : GroupEntry) : (u.setGrp g e).recalling = u.recalling := rfl
@[simp] theorem Tables.writer_setGrp (u : Tables) (g : Grp) (e : GroupEntry) : (u.setGrp g e).writer = u.writer := rfl

/-! ## `Tables.setStr` -/

@[simp] theorem Tables.mode_setStr (u : Tables) (s : Str) (e : StringEntry) : (u.setStr s e).mode = u.mode := rfl
@[simp] theorem Tables.ready_setStr (u : Tables) (s : Str) (e : StringEntry) : (u.setStr s e).ready = u.ready := rfl
@[simp] theorem Tables.key_setStr (u : Tables) (s : Str) (e : StringEntry) : (u.setStr s e).key = u.key := rfl
@[simp] theorem Tables.active_setStr (u : Tables) (s : Str) (e : StringEntry) : (u.setStr s e).active = u.active := rfl
@[simp] theorem Tables.apply_setStr (u : Tables) (s : Str) (e : StringEntry) : (u.setStr s e).apply = u.apply := rfl
@[simp] theorem Tables.lock_setStr (u : Tables) (s : Str) (e : StringEntry) : (u.setStr s e).lock = u.lock := rfl
@[simp] theorem Tables.clock_setStr (u : Tables) (s : Str) (e : StringEntry) : (u.setStr s e).clock = u.clock := rfl
@[simp] theorem Tables.synced_setStr (u : Tables) (s : Str) (e : StringEntry) : (u.setStr s e).synced = u.synced := rfl
@[simp] theorem Tables.advancing_setStr (u : Tables) (s : Str) (e : StringEntry) : (u.setStr s e).advancing = u.advancing := rfl
@[simp] theorem Tables.lastConsumed_setStr (u : Tables) (s : Str) (e : StringEntry) : (u.setStr s e).lastConsumed = u.lastConsumed := rfl
@[simp] theorem Tables.genLow_setStr (u : Tables) (s : Str) (e : StringEntry) : (u.setStr s e).genLow = u.genLow := rfl
@[simp] theorem Tables.genHigh_setStr (u : Tables) (s : Str) (e : StringEntry) : (u.setStr s e).genHigh = u.genHigh := rfl
@[simp] theorem Tables.cabs_setStr (u : Tables) (s : Str) (e : StringEntry) : (u.setStr s e).cabs = u.cabs := rfl
@[simp] theorem Tables.groups_setStr (u : Tables) (s : Str) (e : StringEntry) : (u.setStr s e).groups = u.groups := rfl
@[simp] theorem Tables.visits_setStr (u : Tables) (s : Str) (e : StringEntry) : (u.setStr s e).visits = u.visits := rfl
@[simp] theorem Tables.orders_setStr (u : Tables) (s : Str) (e : StringEntry) : (u.setStr s e).orders = u.orders := rfl
@[simp] theorem Tables.spent_setStr (u : Tables) (s : Str) (e : StringEntry) : (u.setStr s e).spent = u.spent := rfl
@[simp] theorem Tables.recalling_setStr (u : Tables) (s : Str) (e : StringEntry) : (u.setStr s e).recalling = u.recalling := rfl
@[simp] theorem Tables.writer_setStr (u : Tables) (s : Str) (e : StringEntry) : (u.setStr s e).writer = u.writer := rfl

/-! ## `Tables.setTest` -/

@[simp] theorem Tables.mode_setTest (u : Tables) (s : Str) (t : TestFields) : (u.setTest s t).mode = u.mode := rfl
@[simp] theorem Tables.ready_setTest (u : Tables) (s : Str) (t : TestFields) : (u.setTest s t).ready = u.ready := rfl
@[simp] theorem Tables.key_setTest (u : Tables) (s : Str) (t : TestFields) : (u.setTest s t).key = u.key := rfl
@[simp] theorem Tables.active_setTest (u : Tables) (s : Str) (t : TestFields) : (u.setTest s t).active = u.active := rfl
@[simp] theorem Tables.apply_setTest (u : Tables) (s : Str) (t : TestFields) : (u.setTest s t).apply = u.apply := rfl
@[simp] theorem Tables.lock_setTest (u : Tables) (s : Str) (t : TestFields) : (u.setTest s t).lock = u.lock := rfl
@[simp] theorem Tables.clock_setTest (u : Tables) (s : Str) (t : TestFields) : (u.setTest s t).clock = u.clock := rfl
@[simp] theorem Tables.synced_setTest (u : Tables) (s : Str) (t : TestFields) : (u.setTest s t).synced = u.synced := rfl
@[simp] theorem Tables.advancing_setTest (u : Tables) (s : Str) (t : TestFields) : (u.setTest s t).advancing = u.advancing := rfl
@[simp] theorem Tables.lastConsumed_setTest (u : Tables) (s : Str) (t : TestFields) : (u.setTest s t).lastConsumed = u.lastConsumed := rfl
@[simp] theorem Tables.genLow_setTest (u : Tables) (s : Str) (t : TestFields) : (u.setTest s t).genLow = u.genLow := rfl
@[simp] theorem Tables.genHigh_setTest (u : Tables) (s : Str) (t : TestFields) : (u.setTest s t).genHigh = u.genHigh := rfl
@[simp] theorem Tables.cabs_setTest (u : Tables) (s : Str) (t : TestFields) : (u.setTest s t).cabs = u.cabs := rfl
@[simp] theorem Tables.groups_setTest (u : Tables) (s : Str) (t : TestFields) : (u.setTest s t).groups = u.groups := rfl
@[simp] theorem Tables.visits_setTest (u : Tables) (s : Str) (t : TestFields) : (u.setTest s t).visits = u.visits := rfl
@[simp] theorem Tables.orders_setTest (u : Tables) (s : Str) (t : TestFields) : (u.setTest s t).orders = u.orders := rfl
@[simp] theorem Tables.spent_setTest (u : Tables) (s : Str) (t : TestFields) : (u.setTest s t).spent = u.spent := rfl
@[simp] theorem Tables.recalling_setTest (u : Tables) (s : Str) (t : TestFields) : (u.setTest s t).recalling = u.recalling := rfl
@[simp] theorem Tables.writer_setTest (u : Tables) (s : Str) (t : TestFields) : (u.setTest s t).writer = u.writer := rfl

/-! ## `Tables.setVis` -/

@[simp] theorem Tables.mode_setVis (u : Tables) (t : Con) (v : Visit) : (u.setVis t v).mode = u.mode := rfl
@[simp] theorem Tables.ready_setVis (u : Tables) (t : Con) (v : Visit) : (u.setVis t v).ready = u.ready := rfl
@[simp] theorem Tables.key_setVis (u : Tables) (t : Con) (v : Visit) : (u.setVis t v).key = u.key := rfl
@[simp] theorem Tables.active_setVis (u : Tables) (t : Con) (v : Visit) : (u.setVis t v).active = u.active := rfl
@[simp] theorem Tables.apply_setVis (u : Tables) (t : Con) (v : Visit) : (u.setVis t v).apply = u.apply := rfl
@[simp] theorem Tables.lock_setVis (u : Tables) (t : Con) (v : Visit) : (u.setVis t v).lock = u.lock := rfl
@[simp] theorem Tables.clock_setVis (u : Tables) (t : Con) (v : Visit) : (u.setVis t v).clock = u.clock := rfl
@[simp] theorem Tables.synced_setVis (u : Tables) (t : Con) (v : Visit) : (u.setVis t v).synced = u.synced := rfl
@[simp] theorem Tables.advancing_setVis (u : Tables) (t : Con) (v : Visit) : (u.setVis t v).advancing = u.advancing := rfl
@[simp] theorem Tables.lastConsumed_setVis (u : Tables) (t : Con) (v : Visit) : (u.setVis t v).lastConsumed = u.lastConsumed := rfl
@[simp] theorem Tables.genLow_setVis (u : Tables) (t : Con) (v : Visit) : (u.setVis t v).genLow = u.genLow := rfl
@[simp] theorem Tables.genHigh_setVis (u : Tables) (t : Con) (v : Visit) : (u.setVis t v).genHigh = u.genHigh := rfl
@[simp] theorem Tables.cabs_setVis (u : Tables) (t : Con) (v : Visit) : (u.setVis t v).cabs = u.cabs := rfl
@[simp] theorem Tables.groups_setVis (u : Tables) (t : Con) (v : Visit) : (u.setVis t v).groups = u.groups := rfl
@[simp] theorem Tables.strings_setVis (u : Tables) (t : Con) (v : Visit) : (u.setVis t v).strings = u.strings := rfl
@[simp] theorem Tables.orders_setVis (u : Tables) (t : Con) (v : Visit) : (u.setVis t v).orders = u.orders := rfl
@[simp] theorem Tables.spent_setVis (u : Tables) (t : Con) (v : Visit) : (u.setVis t v).spent = u.spent := rfl
@[simp] theorem Tables.recalling_setVis (u : Tables) (t : Con) (v : Visit) : (u.setVis t v).recalling = u.recalling := rfl
@[simp] theorem Tables.writer_setVis (u : Tables) (t : Con) (v : Visit) : (u.setVis t v).writer = u.writer := rfl

/-! ## `Tables.setOrd` -/

@[simp] theorem Tables.mode_setOrd (u : Tables) (n : Slot) (o : Order) : (u.setOrd n o).mode = u.mode := rfl
@[simp] theorem Tables.ready_setOrd (u : Tables) (n : Slot) (o : Order) : (u.setOrd n o).ready = u.ready := rfl
@[simp] theorem Tables.key_setOrd (u : Tables) (n : Slot) (o : Order) : (u.setOrd n o).key = u.key := rfl
@[simp] theorem Tables.active_setOrd (u : Tables) (n : Slot) (o : Order) : (u.setOrd n o).active = u.active := rfl
@[simp] theorem Tables.apply_setOrd (u : Tables) (n : Slot) (o : Order) : (u.setOrd n o).apply = u.apply := rfl
@[simp] theorem Tables.lock_setOrd (u : Tables) (n : Slot) (o : Order) : (u.setOrd n o).lock = u.lock := rfl
@[simp] theorem Tables.clock_setOrd (u : Tables) (n : Slot) (o : Order) : (u.setOrd n o).clock = u.clock := rfl
@[simp] theorem Tables.synced_setOrd (u : Tables) (n : Slot) (o : Order) : (u.setOrd n o).synced = u.synced := rfl
@[simp] theorem Tables.advancing_setOrd (u : Tables) (n : Slot) (o : Order) : (u.setOrd n o).advancing = u.advancing := rfl
@[simp] theorem Tables.lastConsumed_setOrd (u : Tables) (n : Slot) (o : Order) : (u.setOrd n o).lastConsumed = u.lastConsumed := rfl
@[simp] theorem Tables.genLow_setOrd (u : Tables) (n : Slot) (o : Order) : (u.setOrd n o).genLow = u.genLow := rfl
@[simp] theorem Tables.genHigh_setOrd (u : Tables) (n : Slot) (o : Order) : (u.setOrd n o).genHigh = u.genHigh := rfl
@[simp] theorem Tables.cabs_setOrd (u : Tables) (n : Slot) (o : Order) : (u.setOrd n o).cabs = u.cabs := rfl
@[simp] theorem Tables.groups_setOrd (u : Tables) (n : Slot) (o : Order) : (u.setOrd n o).groups = u.groups := rfl
@[simp] theorem Tables.strings_setOrd (u : Tables) (n : Slot) (o : Order) : (u.setOrd n o).strings = u.strings := rfl
@[simp] theorem Tables.visits_setOrd (u : Tables) (n : Slot) (o : Order) : (u.setOrd n o).visits = u.visits := rfl
@[simp] theorem Tables.spent_setOrd (u : Tables) (n : Slot) (o : Order) : (u.setOrd n o).spent = u.spent := rfl
@[simp] theorem Tables.recalling_setOrd (u : Tables) (n : Slot) (o : Order) : (u.setOrd n o).recalling = u.recalling := rfl
@[simp] theorem Tables.writer_setOrd (u : Tables) (n : Slot) (o : Order) : (u.setOrd n o).writer = u.writer := rfl

/-! ## `Tables.setWriter` -/

@[simp] theorem Tables.mode_setWriter (u : Tables) (w : Writer) : (u.setWriter w).mode = u.mode := rfl
@[simp] theorem Tables.ready_setWriter (u : Tables) (w : Writer) : (u.setWriter w).ready = u.ready := rfl
@[simp] theorem Tables.key_setWriter (u : Tables) (w : Writer) : (u.setWriter w).key = u.key := rfl
@[simp] theorem Tables.active_setWriter (u : Tables) (w : Writer) : (u.setWriter w).active = u.active := rfl
@[simp] theorem Tables.apply_setWriter (u : Tables) (w : Writer) : (u.setWriter w).apply = u.apply := rfl
@[simp] theorem Tables.lock_setWriter (u : Tables) (w : Writer) : (u.setWriter w).lock = u.lock := rfl
@[simp] theorem Tables.clock_setWriter (u : Tables) (w : Writer) : (u.setWriter w).clock = u.clock := rfl
@[simp] theorem Tables.synced_setWriter (u : Tables) (w : Writer) : (u.setWriter w).synced = u.synced := rfl
@[simp] theorem Tables.advancing_setWriter (u : Tables) (w : Writer) : (u.setWriter w).advancing = u.advancing := rfl
@[simp] theorem Tables.lastConsumed_setWriter (u : Tables) (w : Writer) : (u.setWriter w).lastConsumed = u.lastConsumed := rfl
@[simp] theorem Tables.genLow_setWriter (u : Tables) (w : Writer) : (u.setWriter w).genLow = u.genLow := rfl
@[simp] theorem Tables.genHigh_setWriter (u : Tables) (w : Writer) : (u.setWriter w).genHigh = u.genHigh := rfl
@[simp] theorem Tables.cabs_setWriter (u : Tables) (w : Writer) : (u.setWriter w).cabs = u.cabs := rfl
@[simp] theorem Tables.groups_setWriter (u : Tables) (w : Writer) : (u.setWriter w).groups = u.groups := rfl
@[simp] theorem Tables.strings_setWriter (u : Tables) (w : Writer) : (u.setWriter w).strings = u.strings := rfl
@[simp] theorem Tables.visits_setWriter (u : Tables) (w : Writer) : (u.setWriter w).visits = u.visits := rfl
@[simp] theorem Tables.orders_setWriter (u : Tables) (w : Writer) : (u.setWriter w).orders = u.orders := rfl
@[simp] theorem Tables.spent_setWriter (u : Tables) (w : Writer) : (u.setWriter w).spent = u.spent := rfl
@[simp] theorem Tables.recalling_setWriter (u : Tables) (w : Writer) : (u.setWriter w).recalling = u.recalling := rfl
@[simp] theorem Tables.writer_setWriter (u : Tables) (w : Writer) : (u.setWriter w).writer = w := rfl
@[simp] theorem Tables.setWriter_setWriter (u : Tables) (w v : Writer) :
    (u.setWriter w).setWriter v = u.setWriter v := rfl
@[simp] theorem Tables.setWriter_self (u : Tables) : u.setWriter u.writer = u := rfl

/-! ## Entries after an update -/

@[simp] theorem Tables.cab_setCab (u : Tables) (c d : Cab) (e : CabEntry) :
    (u.setCab c e).cab d = if c = d then e else u.cab d := by
  simp [Tables.cab, Tables.setCab]
@[simp] theorem Tables.grp_setGrp (u : Tables) (c d : Grp) (e : GroupEntry) :
    (u.setGrp c e).grp d = if c = d then e else u.grp d := by
  simp [Tables.grp, Tables.setGrp]
@[simp] theorem Tables.str_setStr (u : Tables) (c d : Str) (e : StringEntry) :
    (u.setStr c e).str d = if c = d then e else u.str d := by
  simp [Tables.str, Tables.setStr]
@[simp] theorem Tables.vis_setVis (u : Tables) (c d : Con) (e : Visit) :
    (u.setVis c e).vis d = if c = d then e else u.vis d := by
  simp [Tables.vis, Tables.setVis]
@[simp] theorem Tables.ord_setOrd (u : Tables) (c d : Slot) (e : Order) :
    (u.setOrd c e).ord d = if c = d then e else u.ord d := by
  simp [Tables.ord, Tables.setOrd]
@[simp] theorem Tables.str_setTest (u : Tables) (c d : Str) (t : TestFields) :
    (u.setTest c t).str d = if c = d then { u.str c with test := t } else u.str d := by
  simp [Tables.setTest]

@[simp] theorem Tables.cab_setGrp (u : Tables) (g : Grp) (e : GroupEntry) (x : Cab) :
    (u.setGrp g e).cab x = u.cab x := rfl
@[simp] theorem Tables.cab_setStr (u : Tables) (s : Str) (e : StringEntry) (x : Cab) :
    (u.setStr s e).cab x = u.cab x := rfl
@[simp] theorem Tables.cab_setTest (u : Tables) (s : Str) (e : TestFields) (x : Cab) :
    (u.setTest s e).cab x = u.cab x := rfl
@[simp] theorem Tables.cab_setVis (u : Tables) (t : Con) (e : Visit) (x : Cab) :
    (u.setVis t e).cab x = u.cab x := rfl
@[simp] theorem Tables.cab_setOrd (u : Tables) (n : Slot) (e : Order) (x : Cab) :
    (u.setOrd n e).cab x = u.cab x := rfl
@[simp] theorem Tables.cab_setWriter (u : Tables) (w : Writer) (x : Cab) :
    (u.setWriter w).cab x = u.cab x := rfl
@[simp] theorem Tables.grp_setCab (u : Tables) (c : Cab) (e : CabEntry) (x : Grp) :
    (u.setCab c e).grp x = u.grp x := rfl
@[simp] theorem Tables.grp_setStr (u : Tables) (s : Str) (e : StringEntry) (x : Grp) :
    (u.setStr s e).grp x = u.grp x := rfl
@[simp] theorem Tables.grp_setTest (u : Tables) (s : Str) (e : TestFields) (x : Grp) :
    (u.setTest s e).grp x = u.grp x := rfl
@[simp] theorem Tables.grp_setVis (u : Tables) (t : Con) (e : Visit) (x : Grp) :
    (u.setVis t e).grp x = u.grp x := rfl
@[simp] theorem Tables.grp_setOrd (u : Tables) (n : Slot) (e : Order) (x : Grp) :
    (u.setOrd n e).grp x = u.grp x := rfl
@[simp] theorem Tables.grp_setWriter (u : Tables) (w : Writer) (x : Grp) :
    (u.setWriter w).grp x = u.grp x := rfl
@[simp] theorem Tables.str_setCab (u : Tables) (c : Cab) (e : CabEntry) (x : Str) :
    (u.setCab c e).str x = u.str x := rfl
@[simp] theorem Tables.str_setGrp (u : Tables) (g : Grp) (e : GroupEntry) (x : Str) :
    (u.setGrp g e).str x = u.str x := rfl
@[simp] theorem Tables.str_setVis (u : Tables) (t : Con) (e : Visit) (x : Str) :
    (u.setVis t e).str x = u.str x := rfl
@[simp] theorem Tables.str_setOrd (u : Tables) (n : Slot) (e : Order) (x : Str) :
    (u.setOrd n e).str x = u.str x := rfl
@[simp] theorem Tables.str_setWriter (u : Tables) (w : Writer) (x : Str) :
    (u.setWriter w).str x = u.str x := rfl
@[simp] theorem Tables.vis_setCab (u : Tables) (c : Cab) (e : CabEntry) (x : Con) :
    (u.setCab c e).vis x = u.vis x := rfl
@[simp] theorem Tables.vis_setGrp (u : Tables) (g : Grp) (e : GroupEntry) (x : Con) :
    (u.setGrp g e).vis x = u.vis x := rfl
@[simp] theorem Tables.vis_setStr (u : Tables) (s : Str) (e : StringEntry) (x : Con) :
    (u.setStr s e).vis x = u.vis x := rfl
@[simp] theorem Tables.vis_setTest (u : Tables) (s : Str) (e : TestFields) (x : Con) :
    (u.setTest s e).vis x = u.vis x := rfl
@[simp] theorem Tables.vis_setOrd (u : Tables) (n : Slot) (e : Order) (x : Con) :
    (u.setOrd n e).vis x = u.vis x := rfl
@[simp] theorem Tables.vis_setWriter (u : Tables) (w : Writer) (x : Con) :
    (u.setWriter w).vis x = u.vis x := rfl
@[simp] theorem Tables.ord_setCab (u : Tables) (c : Cab) (e : CabEntry) (x : Slot) :
    (u.setCab c e).ord x = u.ord x := rfl
@[simp] theorem Tables.ord_setGrp (u : Tables) (g : Grp) (e : GroupEntry) (x : Slot) :
    (u.setGrp g e).ord x = u.ord x := rfl
@[simp] theorem Tables.ord_setStr (u : Tables) (s : Str) (e : StringEntry) (x : Slot) :
    (u.setStr s e).ord x = u.ord x := rfl
@[simp] theorem Tables.ord_setTest (u : Tables) (s : Str) (e : TestFields) (x : Slot) :
    (u.setTest s e).ord x = u.ord x := rfl
@[simp] theorem Tables.ord_setVis (u : Tables) (t : Con) (e : Visit) (x : Slot) :
    (u.setVis t e).ord x = u.ord x := rfl
@[simp] theorem Tables.ord_setWriter (u : Tables) (w : Writer) (x : Slot) :
    (u.setWriter w).ord x = u.ord x := rfl

/-! ## The configuration as read is not touched by an update of the tables -/

@[simp] theorem Tables.cabCfg_setCab (u : Tables) (c : Cab) (e : CabEntry) (x : Cab) :
    (u.setCab c e).cabCfg x = u.cabCfg x := rfl
@[simp] theorem Tables.present_setCab (u : Tables) (c : Cab) (e : CabEntry) (x : Cab) :
    (u.setCab c e).present x = u.present x := rfl
@[simp] theorem Tables.groupOf_setCab (u : Tables) (c : Cab) (e : CabEntry) (x : Cab) :
    (u.setCab c e).groupOf x = u.groupOf x := rfl
@[simp] theorem Tables.grpCfg_setCab (u : Tables) (c : Cab) (e : CabEntry) (x : Grp) :
    (u.setCab c e).grpCfg x = u.grpCfg x := rfl
@[simp] theorem Tables.members_setCab (u : Tables) (c : Cab) (e : CabEntry) (x : Grp) :
    (u.setCab c e).members x = u.members x := rfl
@[simp] theorem Tables.owner_setCab (u : Tables) (c : Cab) (e : CabEntry) (x : Str) :
    (u.setCab c e).owner x = u.owner x := rfl
@[simp] theorem Tables.place_setCab (u : Tables) (c : Cab) (e : CabEntry) (x : Str) :
    (u.setCab c e).place x = u.place x := rfl
@[simp] theorem Tables.limit_setCab (u : Tables) (c : Cab) (e : CabEntry) (f : Block → Nat) :
    (u.setCab c e).limit f = u.limit f := rfl
@[simp] theorem Tables.nomap_setCab (u : Tables) (c : Cab) (e : CabEntry) : (u.setCab c e).nomap = u.nomap := rfl
@[simp] theorem Tables.cabCfg_setGrp (u : Tables) (g : Grp) (e : GroupEntry) (x : Cab) :
    (u.setGrp g e).cabCfg x = u.cabCfg x := rfl
@[simp] theorem Tables.present_setGrp (u : Tables) (g : Grp) (e : GroupEntry) (x : Cab) :
    (u.setGrp g e).present x = u.present x := rfl
@[simp] theorem Tables.groupOf_setGrp (u : Tables) (g : Grp) (e : GroupEntry) (x : Cab) :
    (u.setGrp g e).groupOf x = u.groupOf x := rfl
@[simp] theorem Tables.grpCfg_setGrp (u : Tables) (g : Grp) (e : GroupEntry) (x : Grp) :
    (u.setGrp g e).grpCfg x = u.grpCfg x := rfl
@[simp] theorem Tables.members_setGrp (u : Tables) (g : Grp) (e : GroupEntry) (x : Grp) :
    (u.setGrp g e).members x = u.members x := rfl
@[simp] theorem Tables.owner_setGrp (u : Tables) (g : Grp) (e : GroupEntry) (x : Str) :
    (u.setGrp g e).owner x = u.owner x := rfl
@[simp] theorem Tables.place_setGrp (u : Tables) (g : Grp) (e : GroupEntry) (x : Str) :
    (u.setGrp g e).place x = u.place x := rfl
@[simp] theorem Tables.limit_setGrp (u : Tables) (g : Grp) (e : GroupEntry) (f : Block → Nat) :
    (u.setGrp g e).limit f = u.limit f := rfl
@[simp] theorem Tables.nomap_setGrp (u : Tables) (g : Grp) (e : GroupEntry) : (u.setGrp g e).nomap = u.nomap := rfl
@[simp] theorem Tables.cabCfg_setStr (u : Tables) (s : Str) (e : StringEntry) (x : Cab) :
    (u.setStr s e).cabCfg x = u.cabCfg x := rfl
@[simp] theorem Tables.present_setStr (u : Tables) (s : Str) (e : StringEntry) (x : Cab) :
    (u.setStr s e).present x = u.present x := rfl
@[simp] theorem Tables.groupOf_setStr (u : Tables) (s : Str) (e : StringEntry) (x : Cab) :
    (u.setStr s e).groupOf x = u.groupOf x := rfl
@[simp] theorem Tables.grpCfg_setStr (u : Tables) (s : Str) (e : StringEntry) (x : Grp) :
    (u.setStr s e).grpCfg x = u.grpCfg x := rfl
@[simp] theorem Tables.members_setStr (u : Tables) (s : Str) (e : StringEntry) (x : Grp) :
    (u.setStr s e).members x = u.members x := rfl
@[simp] theorem Tables.owner_setStr (u : Tables) (s : Str) (e : StringEntry) (x : Str) :
    (u.setStr s e).owner x = u.owner x := rfl
@[simp] theorem Tables.place_setStr (u : Tables) (s : Str) (e : StringEntry) (x : Str) :
    (u.setStr s e).place x = u.place x := rfl
@[simp] theorem Tables.limit_setStr (u : Tables) (s : Str) (e : StringEntry) (f : Block → Nat) :
    (u.setStr s e).limit f = u.limit f := rfl
@[simp] theorem Tables.nomap_setStr (u : Tables) (s : Str) (e : StringEntry) : (u.setStr s e).nomap = u.nomap := rfl
@[simp] theorem Tables.cabCfg_setTest (u : Tables) (s : Str) (e : TestFields) (x : Cab) :
    (u.setTest s e).cabCfg x = u.cabCfg x := rfl
@[simp] theorem Tables.present_setTest (u : Tables) (s : Str) (e : TestFields) (x : Cab) :
    (u.setTest s e).present x = u.present x := rfl
@[simp] theorem Tables.groupOf_setTest (u : Tables) (s : Str) (e : TestFields) (x : Cab) :
    (u.setTest s e).groupOf x = u.groupOf x := rfl
@[simp] theorem Tables.grpCfg_setTest (u : Tables) (s : Str) (e : TestFields) (x : Grp) :
    (u.setTest s e).grpCfg x = u.grpCfg x := rfl
@[simp] theorem Tables.members_setTest (u : Tables) (s : Str) (e : TestFields) (x : Grp) :
    (u.setTest s e).members x = u.members x := rfl
@[simp] theorem Tables.owner_setTest (u : Tables) (s : Str) (e : TestFields) (x : Str) :
    (u.setTest s e).owner x = u.owner x := rfl
@[simp] theorem Tables.place_setTest (u : Tables) (s : Str) (e : TestFields) (x : Str) :
    (u.setTest s e).place x = u.place x := rfl
@[simp] theorem Tables.limit_setTest (u : Tables) (s : Str) (e : TestFields) (f : Block → Nat) :
    (u.setTest s e).limit f = u.limit f := rfl
@[simp] theorem Tables.nomap_setTest (u : Tables) (s : Str) (e : TestFields) : (u.setTest s e).nomap = u.nomap := rfl
@[simp] theorem Tables.cabCfg_setVis (u : Tables) (t : Con) (e : Visit) (x : Cab) :
    (u.setVis t e).cabCfg x = u.cabCfg x := rfl
@[simp] theorem Tables.present_setVis (u : Tables) (t : Con) (e : Visit) (x : Cab) :
    (u.setVis t e).present x = u.present x := rfl
@[simp] theorem Tables.groupOf_setVis (u : Tables) (t : Con) (e : Visit) (x : Cab) :
    (u.setVis t e).groupOf x = u.groupOf x := rfl
@[simp] theorem Tables.grpCfg_setVis (u : Tables) (t : Con) (e : Visit) (x : Grp) :
    (u.setVis t e).grpCfg x = u.grpCfg x := rfl
@[simp] theorem Tables.members_setVis (u : Tables) (t : Con) (e : Visit) (x : Grp) :
    (u.setVis t e).members x = u.members x := rfl
@[simp] theorem Tables.owner_setVis (u : Tables) (t : Con) (e : Visit) (x : Str) :
    (u.setVis t e).owner x = u.owner x := rfl
@[simp] theorem Tables.place_setVis (u : Tables) (t : Con) (e : Visit) (x : Str) :
    (u.setVis t e).place x = u.place x := rfl
@[simp] theorem Tables.limit_setVis (u : Tables) (t : Con) (e : Visit) (f : Block → Nat) :
    (u.setVis t e).limit f = u.limit f := rfl
@[simp] theorem Tables.nomap_setVis (u : Tables) (t : Con) (e : Visit) : (u.setVis t e).nomap = u.nomap := rfl
@[simp] theorem Tables.cabCfg_setOrd (u : Tables) (n : Slot) (e : Order) (x : Cab) :
    (u.setOrd n e).cabCfg x = u.cabCfg x := rfl
@[simp] theorem Tables.present_setOrd (u : Tables) (n : Slot) (e : Order) (x : Cab) :
    (u.setOrd n e).present x = u.present x := rfl
@[simp] theorem Tables.groupOf_setOrd (u : Tables) (n : Slot) (e : Order) (x : Cab) :
    (u.setOrd n e).groupOf x = u.groupOf x := rfl
@[simp] theorem Tables.grpCfg_setOrd (u : Tables) (n : Slot) (e : Order) (x : Grp) :
    (u.setOrd n e).grpCfg x = u.grpCfg x := rfl
@[simp] theorem Tables.members_setOrd (u : Tables) (n : Slot) (e : Order) (x : Grp) :
    (u.setOrd n e).members x = u.members x := rfl
@[simp] theorem Tables.owner_setOrd (u : Tables) (n : Slot) (e : Order) (x : Str) :
    (u.setOrd n e).owner x = u.owner x := rfl
@[simp] theorem Tables.place_setOrd (u : Tables) (n : Slot) (e : Order) (x : Str) :
    (u.setOrd n e).place x = u.place x := rfl
@[simp] theorem Tables.limit_setOrd (u : Tables) (n : Slot) (e : Order) (f : Block → Nat) :
    (u.setOrd n e).limit f = u.limit f := rfl
@[simp] theorem Tables.nomap_setOrd (u : Tables) (n : Slot) (e : Order) : (u.setOrd n e).nomap = u.nomap := rfl
@[simp] theorem Tables.cabCfg_setWriter (u : Tables) (w : Writer) (x : Cab) :
    (u.setWriter w).cabCfg x = u.cabCfg x := rfl
@[simp] theorem Tables.present_setWriter (u : Tables) (w : Writer) (x : Cab) :
    (u.setWriter w).present x = u.present x := rfl
@[simp] theorem Tables.groupOf_setWriter (u : Tables) (w : Writer) (x : Cab) :
    (u.setWriter w).groupOf x = u.groupOf x := rfl
@[simp] theorem Tables.grpCfg_setWriter (u : Tables) (w : Writer) (x : Grp) :
    (u.setWriter w).grpCfg x = u.grpCfg x := rfl
@[simp] theorem Tables.members_setWriter (u : Tables) (w : Writer) (x : Grp) :
    (u.setWriter w).members x = u.members x := rfl
@[simp] theorem Tables.owner_setWriter (u : Tables) (w : Writer) (x : Str) :
    (u.setWriter w).owner x = u.owner x := rfl
@[simp] theorem Tables.place_setWriter (u : Tables) (w : Writer) (x : Str) :
    (u.setWriter w).place x = u.place x := rfl
@[simp] theorem Tables.limit_setWriter (u : Tables) (w : Writer) (f : Block → Nat) :
    (u.setWriter w).limit f = u.limit f := rfl
@[simp] theorem Tables.nomap_setWriter (u : Tables) (w : Writer) : (u.setWriter w).nomap = u.nomap := rfl

/-! ## `State.setTables` -/

@[simp] theorem State.keyLine_setTables (s : State) (u : Tables) : (s.setTables u).keyLine = s.keyLine := rfl
@[simp] theorem State.pfwLine_setTables (s : State) (u : Tables) : (s.setTables u).pfwLine = s.pfwLine := rfl
@[simp] theorem State.queues_setTables (s : State) (u : Tables) : (s.setTables u).queues = s.queues := rfl
@[simp] theorem State.rotation_setTables (s : State) (u : Tables) : (s.setTables u).rotation = s.rotation := rfl
@[simp] theorem State.grant_setTables (s : State) (u : Tables) : (s.setTables u).grant = s.grant := rfl
@[simp] theorem State.sent_setTables (s : State) (u : Tables) : (s.setTables u).sent = s.sent := rfl
@[simp] theorem State.mem_setTables (s : State) (u : Tables) : (s.setTables u).mem = s.mem := rfl
@[simp] theorem State.pending_setTables (s : State) (u : Tables) : (s.setTables u).pending = s.pending := rfl
@[simp] theorem State.tables_setTables (s : State) (u : Tables) : (s.setTables u).tables = u := rfl

/-! ## Queues -/

@[simp] theorem Queues.of_put (q : Queues) (p r : Port) (l : List Access) :
    (q.put p l).of r = if p = r then l else q.of r := by
  cases p <;> cases r <;> rfl

@[simp] theorem Queues.of_reset (p : Port) : Queues.reset.of p = [] := by cases p <;> rfl

end Sys2Proof.Machine
end

