-- ==== Sys2Proof/Laws/Writer.lean ====
section
/-! SUPPORT. The record writer's shared operations: each changes the tables only in the writer, and each keeps the
writer's lists sound. -/

-- One theorem at a time, for the reason Laws/State.lean gives.
set_option Elab.async false

namespace Sys2Proof.Machine

/-! ## Changes of the writer alone -/

/-- `v` is `u` but for the writer. -/
structure OnlyWriter (u v : Tables) : Prop where
  same : ∃ w, v = u.setWriter w

theorem OnlyWriter.mode {u v : Tables} (h : OnlyWriter u v) : v.mode = u.mode := by
  obtain ⟨w, rfl⟩ := h.same; rfl
theorem OnlyWriter.ready {u v : Tables} (h : OnlyWriter u v) : v.ready = u.ready := by
  obtain ⟨w, rfl⟩ := h.same; rfl
theorem OnlyWriter.key {u v : Tables} (h : OnlyWriter u v) : v.key = u.key := by
  obtain ⟨w, rfl⟩ := h.same; rfl
theorem OnlyWriter.active {u v : Tables} (h : OnlyWriter u v) : v.active = u.active := by
  obtain ⟨w, rfl⟩ := h.same; rfl
theorem OnlyWriter.apply {u v : Tables} (h : OnlyWriter u v) : v.apply = u.apply := by
  obtain ⟨w, rfl⟩ := h.same; rfl
theorem OnlyWriter.lock {u v : Tables} (h : OnlyWriter u v) : v.lock = u.lock := by
  obtain ⟨w, rfl⟩ := h.same; rfl
theorem OnlyWriter.clock {u v : Tables} (h : OnlyWriter u v) : v.clock = u.clock := by
  obtain ⟨w, rfl⟩ := h.same; rfl
theorem OnlyWriter.synced {u v : Tables} (h : OnlyWriter u v) : v.synced = u.synced := by
  obtain ⟨w, rfl⟩ := h.same; rfl
theorem OnlyWriter.advancing {u v : Tables} (h : OnlyWriter u v) : v.advancing = u.advancing := by
  obtain ⟨w, rfl⟩ := h.same; rfl
theorem OnlyWriter.lastConsumed {u v : Tables} (h : OnlyWriter u v) : v.lastConsumed = u.lastConsumed := by
  obtain ⟨w, rfl⟩ := h.same; rfl
theorem OnlyWriter.genLow {u v : Tables} (h : OnlyWriter u v) : v.genLow = u.genLow := by
  obtain ⟨w, rfl⟩ := h.same; rfl
theorem OnlyWriter.genHigh {u v : Tables} (h : OnlyWriter u v) : v.genHigh = u.genHigh := by
  obtain ⟨w, rfl⟩ := h.same; rfl
theorem OnlyWriter.cabs {u v : Tables} (h : OnlyWriter u v) : v.cabs = u.cabs := by
  obtain ⟨w, rfl⟩ := h.same; rfl
theorem OnlyWriter.groups {u v : Tables} (h : OnlyWriter u v) : v.groups = u.groups := by
  obtain ⟨w, rfl⟩ := h.same; rfl
theorem OnlyWriter.strings {u v : Tables} (h : OnlyWriter u v) : v.strings = u.strings := by
  obtain ⟨w, rfl⟩ := h.same; rfl
theorem OnlyWriter.visits {u v : Tables} (h : OnlyWriter u v) : v.visits = u.visits := by
  obtain ⟨w, rfl⟩ := h.same; rfl
theorem OnlyWriter.orders {u v : Tables} (h : OnlyWriter u v) : v.orders = u.orders := by
  obtain ⟨w, rfl⟩ := h.same; rfl
theorem OnlyWriter.spent {u v : Tables} (h : OnlyWriter u v) : v.spent = u.spent := by
  obtain ⟨w, rfl⟩ := h.same; rfl
theorem OnlyWriter.recalling {u v : Tables} (h : OnlyWriter u v) : v.recalling = u.recalling := by
  obtain ⟨w, rfl⟩ := h.same; rfl
theorem OnlyWriter.cab {u v : Tables} (h : OnlyWriter u v) (y : Cab) : v.cab y = u.cab y := by
  obtain ⟨w, rfl⟩ := h.same; rfl
theorem OnlyWriter.grp {u v : Tables} (h : OnlyWriter u v) (y : Grp) : v.grp y = u.grp y := by
  obtain ⟨w, rfl⟩ := h.same; rfl
theorem OnlyWriter.str {u v : Tables} (h : OnlyWriter u v) (y : Str) : v.str y = u.str y := by
  obtain ⟨w, rfl⟩ := h.same; rfl
theorem OnlyWriter.vis {u v : Tables} (h : OnlyWriter u v) (y : Con) : v.vis y = u.vis y := by
  obtain ⟨w, rfl⟩ := h.same; rfl
theorem OnlyWriter.ord {u v : Tables} (h : OnlyWriter u v) (y : Slot) : v.ord y = u.ord y := by
  obtain ⟨w, rfl⟩ := h.same; rfl
theorem OnlyWriter.cabCfg {u v : Tables} (h : OnlyWriter u v) (y : Cab) : v.cabCfg y = u.cabCfg y := by
  obtain ⟨w, rfl⟩ := h.same; rfl
theorem OnlyWriter.present {u v : Tables} (h : OnlyWriter u v) (y : Cab) : v.present y = u.present y := by
  obtain ⟨w, rfl⟩ := h.same; rfl
theorem OnlyWriter.groupOf {u v : Tables} (h : OnlyWriter u v) (y : Cab) : v.groupOf y = u.groupOf y := by
  obtain ⟨w, rfl⟩ := h.same; rfl
theorem OnlyWriter.grpCfg {u v : Tables} (h : OnlyWriter u v) (y : Grp) : v.grpCfg y = u.grpCfg y := by
  obtain ⟨w, rfl⟩ := h.same; rfl
theorem OnlyWriter.members {u v : Tables} (h : OnlyWriter u v) (y : Grp) : v.members y = u.members y := by
  obtain ⟨w, rfl⟩ := h.same; rfl
theorem OnlyWriter.owner {u v : Tables} (h : OnlyWriter u v) (y : Str) : v.owner y = u.owner y := by
  obtain ⟨w, rfl⟩ := h.same; rfl
theorem OnlyWriter.place {u v : Tables} (h : OnlyWriter u v) (y : Str) : v.place y = u.place y := by
  obtain ⟨w, rfl⟩ := h.same; rfl
theorem OnlyWriter.limit {u v : Tables} (h : OnlyWriter u v) (f : Block → Nat) : v.limit f = u.limit f := by
  obtain ⟨w, rfl⟩ := h.same; rfl
theorem OnlyWriter.nomap {u v : Tables} (h : OnlyWriter u v) : v.nomap = u.nomap := by
  obtain ⟨w, rfl⟩ := h.same; rfl
theorem OnlyWriter.refl (u : Tables) : OnlyWriter u u := ⟨u.writer, rfl⟩

theorem OnlyWriter.trans {u v w : Tables} (h : OnlyWriter u v) (k : OnlyWriter v w) : OnlyWriter u w := by
  obtain ⟨x, rfl⟩ := h.same
  obtain ⟨y, rfl⟩ := k.same
  exact ⟨y, rfl⟩

theorem Tables.only_setWriter (u : Tables) (w : Writer) : OnlyWriter u (u.setWriter w) := ⟨w, rfl⟩

theorem Tables.only_evalAttn (u : Tables) : OnlyWriter u u.evalAttn := ⟨_, rfl⟩

theorem Tables.only_markUrgent (u : Tables) (r : RecId) : OnlyWriter u (u.markUrgent r) := by
  unfold Tables.markUrgent
  split
  · exact .refl u
  · exact u.only_setWriter _

theorem Tables.only_markLazy (u : Tables) (r : RecId) : OnlyWriter u (u.markLazy r) := by
  unfold Tables.markLazy
  split
  · exact u.only_markUrgent r
  · split
    · exact .refl u
    · exact u.only_setWriter _

theorem Tables.only_markHalf (u : Tables) (c : Cab) : OnlyWriter u (u.markHalf c) := by
  unfold Tables.markHalf
  split
  · exact .refl u
  · exact (u.only_setWriter _).trans (Tables.only_markUrgent _ _)

theorem Tables.only_markIf (u : Tables) (r : RecId) (b l : Bool) : OnlyWriter u (u.markIf r b l) := by
  unfold Tables.markIf
  split
  · exact u.only_markUrgent r
  · split
    · exact u.only_markLazy r
    · exact .refl u

theorem Tables.only_takeEntry (u : Tables) (h : JHead) (e : RawEntry) : OnlyWriter u (u.takeEntry h e) :=
  ((u.only_setWriter _).trans (Tables.only_markUrgent _ _)).trans (Tables.only_evalAttn _)

theorem Tables.only_tryLost (u : Tables) : OnlyWriter u u.tryLost := by
  unfold Tables.tryLost
  split
  · split
    · exact u.only_takeEntry _ _
    · exact .refl u
  · exact .refl u

theorem Tables.only_setLost (u : Tables) : OnlyWriter u u.setLost := by
  unfold Tables.setLost
  split
  · split
    · exact .refl u
    · exact (u.only_setWriter _).trans (Tables.only_markUrgent _ _)
  · exact .refl u

theorem Tables.only_submit (u : Tables) (e : RawEntry) : OnlyWriter u (u.submit e) := by
  unfold Tables.submit
  refine u.only_tryLost.trans ?_
  dsimp only
  split
  · split
    · exact Tables.only_takeEntry _ _ _
    · exact Tables.only_setLost _
  · exact .refl _

theorem Tables.only_hold (u : Tables) (e : RawEntry) : OnlyWriter u (u.hold e) := by
  unfold Tables.hold
  split
  · exact (u.only_setWriter _).trans (Tables.only_markUrgent _ _)
  · exact u.only_setWriter _

theorem Tables.only_journal (u : Tables) (k : JKind) (v : Severity) (n d : Byte) (x : Word32) :
    OnlyWriter u (u.journal k v n d x) := by
  unfold Tables.journal
  dsimp only
  split
  · exact .refl u
  · split
    · exact u.only_submit _
    · exact u.only_hold _

theorem Tables.only_setLatch (u : Tables) : OnlyWriter u u.setLatch := by
  unfold Tables.setLatch
  split
  · exact .refl u
  · exact ((u.only_setWriter _).trans (Tables.only_markUrgent _ _)).trans (Tables.only_evalAttn _)

theorem Tables.only_flushNow (u : Tables) : OnlyWriter u u.flushNow := u.only_setWriter _

/-! ## Rising stamps -/

/-- The last stamp of a rising list may be put off. -/
theorem rising_next {l : List Nat} {n m : Nat} (h : (l ++ [n]).Pairwise (· < ·)) (hm : n ≤ m) :
    (l ++ [m]).Pairwise (· < ·) := by
  simp only [List.pairwise_append, List.pairwise_singleton, List.mem_singleton, forall_eq, true_and] at h ⊢
  exact ⟨h.1, fun a ha => (h.2 a ha).trans_le hm⟩

/-- The last stamp of a rising list is given to an entry, and the next one follows it. -/
theorem rising_push {l : List Nat} {n : Nat} (h : (l ++ [n]).Pairwise (· < ·)) :
    (l ++ [n] ++ [n + 1]).Pairwise (· < ·) := by
  simp only [List.pairwise_append, List.pairwise_singleton, List.mem_singleton, List.mem_append, forall_eq, true_and]
    at h ⊢
  refine ⟨h, fun a ha => ?_⟩
  rcases ha with ha | ha
  · exact (h.2 a ha).trans (Nat.lt_succ_self n)
  · omega

/-! ## Sound lists -/

theorem Writer.sound_reset : Writer.reset.Sound := by decide

/-- The record is nowhere in the writer's places. -/
theorem Writer.not_placed (w : Writer) (r : RecId) (h : w.placed r = false) :
    r ∉ w.urgent.map (·.what) ++ w.lazySet := by
  simp only [Writer.placed, Writer.inUrgent, Writer.inLazy, Bool.or_eq_false_iff, List.any_eq_false,
    beq_iff_eq] at h
  simp only [List.mem_append, List.mem_map, not_or, not_exists, not_and]
  exact ⟨fun p hp => h.1 p hp, by simpa using h.2⟩

/-- A joining of the urgent set leaves the stamps rising. -/
theorem Writer.urgentStamps_join (w : Writer) (r : RecId) (h : w.urgentStamps.Pairwise (· < ·)) :
    (w.joinUrgent r).urgentStamps.Pairwise (· < ·) := by
  simpa [Writer.urgentStamps, Writer.joinUrgent] using rising_push h

theorem Writer.listedStamps_join (w : Writer) (r : RecId) (h : w.listedStamps.Pairwise (· < ·)) :
    (w.joinUrgent r).listedStamps.Pairwise (· < ·) := by
  simp only [Writer.listedStamps, ← List.append_assoc] at h
  simpa [Writer.listedStamps, Writer.joinUrgent] using rising_next h (Nat.le_succ _)

theorem Writer.sound_urgentMark (w : Writer) (r : RecId) (h : w.Sound) : (w.urgentMark r).Sound := by
  unfold Writer.urgentMark
  split
  · exact h
  · next hu =>
    obtain ⟨h1, h2, h3, h4, h5, h6, h7⟩ := h
    refine ⟨h1, ?_, h3, h4, h5, Writer.urgentStamps_join _ r h6, Writer.listedStamps_join _ r h7⟩
    have hu : r ∉ w.urgent.map (·.what) := by
      simpa [Writer.inUrgent] using hu
    rw [List.nodup_append] at h2
    obtain ⟨h2, h7, h8⟩ := h2
    simp only [Writer.joinUrgent, List.map_append, List.map_cons, List.map_nil]
    rw [List.nodup_append, List.nodup_append]
    refine ⟨⟨h2, by simp, ?_⟩, h7.erase r, ?_⟩
    · rintro a ha b hb rfl
      simp only [List.mem_singleton] at hb
      exact hu (hb ▸ ha)
    · intro a ha b hb hab
      subst hab
      have hb' := List.mem_of_mem_erase hb
      rcases List.mem_append.mp ha with ha | ha
      · exact h8 a ha a hb' rfl
      · simp only [List.mem_singleton] at ha
        subst ha
        exact (h7.not_mem_erase) hb

theorem Writer.sound_lazyMark (w : Writer) (r : RecId) (h : w.Sound) : (w.lazyMark r).Sound := by
  unfold Writer.lazyMark
  split
  · exact h
  · next hp =>
    obtain ⟨h1, h2, h3, h4, h5, h6, h7⟩ := h
    refine ⟨h1, ?_, h3, h4, h5, h6, h7⟩
    have := w.not_placed r (by simpa using hp)
    simp only [← List.append_assoc]
    rw [List.nodup_append]
    refine ⟨h2, by simp, ?_⟩
    rintro a ha b hb rfl
    simp only [List.mem_singleton] at hb
    exact this (hb ▸ ha)

theorem Writer.sound_unplace (w : Writer) (r : RecId) (h : w.Sound) : (w.unplace r).Sound := by
  obtain ⟨h1, h2, h3, h4, h5, h6, h7⟩ := h
  refine ⟨h1, h2.sublist (List.Sublist.append ?_ List.erase_sublist), h3, h4, h5, ?_, h7⟩
  · exact List.filter_sublist.map _
  · exact h6.sublist (List.Sublist.append (List.filter_sublist.map _) (List.Sublist.refl _))

theorem Writer.hasSpace_head (w : Writer) (h : w.hasSpace = true) :
    ∃ k, w.head = some k ∧ k.unconsumed < ringSize ∧ w.listed < pendingLimit := by
  unfold Writer.hasSpace at h
  split at h
  · next k hk => exact ⟨k, hk, by simpa using h⟩
  · simp at h

/-- The places of a head that has taken one more entry. -/
theorem JHead.places_succ (h : JHead) :
    (List.range (h.unconsumed + 1)).map
        ({ h with nextSeq := h.nextSeq + 1, nextPos := h.nextPos + 1, unconsumed := h.unconsumed + 1 } : JHead).place =
      (List.range h.unconsumed).map h.place ++ [(h.nextSeq, h.nextPos)] := by
  rw [List.range_succ, List.map_append, List.map_cons, List.map_nil]
  congr 1
  · refine List.map_congr_left (fun i _ => ?_)
    simp only [JHead.place, JHead.oldest, BitVec.ofNat_add, BitVec.ofNat_eq_ofNat]
    generalize BitVec.ofNat 32 1 = y
    generalize BitVec.ofNat 8 1 = z
    congr 1 <;> ring
  · simp only [JHead.place, JHead.oldest, BitVec.ofNat_add, BitVec.ofNat_eq_ofNat]
    generalize BitVec.ofNat 32 1 = y
    generalize BitVec.ofNat 8 1 = z
    congr 2 <;> ring

/-- An entry taken while the ring has a position, with any stamp for which the pending list stays sound: the head given
may differ from the writer's in the lost mark only. -/
theorem Writer.sound_takeStamped (w : Writer) (k k' : JHead) (e : RawEntry) (n : Nat) (h : w.Sound)
    (hk' : w.head = some k') (hk : k = { k' with lost := k.lost }) (hu : k'.unconsumed < ringSize)
    (hl : w.listed < pendingLimit) (hn : (w.takeStamped k e n).listedStamps.Pairwise (· < ·)) :
    (w.takeStamped k e n).Sound := by
  obtain ⟨h1, h2, h3, h4, h5, h6, h7⟩ := h
  refine ⟨?_, h2, ?_, ?_, ?_, h6, hn⟩
  · simp only [Writer.listed] at hl
    simp only [Writer.listed, Writer.takeStamped, List.length_append, List.length_singleton]
    omega
  · have := k.places_succ
    simp only [Writer.takeStamped, Writer.places, List.map_append, List.map_cons, List.map_nil, h3, hk', this]
    rw [hk]
    rfl
  · have : k.unconsumed = k'.unconsumed := by rw [hk]
    simp only [Writer.takeStamped, Writer.unconsumed]
    omega
  · simp [Writer.takeStamped]

/-- An entry taken while there is space. -/
theorem Writer.sound_takeEntry (w : Writer) (k k' : JHead) (e : RawEntry) (h : w.Sound) (hs : w.hasSpace = true)
    (hk' : w.head = some k') (hk : k = { k' with lost := k.lost }) : (w.takeEntry k e).Sound := by
  obtain ⟨h1, h2, h3, h4, h5, h6, h7⟩ := h
  obtain ⟨k2, hk2, hlt, hp⟩ := w.hasSpace_head hs
  obtain rfl : k2 = k' := Option.some.inj (hk2.symm.trans hk')
  let v : Writer := { w with stamp := w.stamp + 1 }
  have hv : v.Sound := by
    refine ⟨h1, h2, h3, h4, h5, rising_next h6 (Nat.le_succ _), ?_⟩
    simp only [Writer.listedStamps, ← List.append_assoc] at h7 ⊢
    exact rising_next h7 (Nat.le_succ _)
  refine v.sound_takeStamped k k2 e w.stamp hv hk2 hk hlt hp ?_
  simp only [Writer.listedStamps, ← List.append_assoc] at h7
  simpa [Writer.listedStamps, Writer.takeStamped, v] using rising_push h7

theorem Writer.sound_hold (w : Writer) (e : RawEntry) (h : w.Sound) (hn : w.head = none)
    (hl : w.listed < pendingLimit) : (w.hold e).Sound := by
  obtain ⟨h1, h2, h3, h4, h5, h6, h7⟩ := h
  refine ⟨?_, h2, h3, h4, h5, rising_next h6 (Nat.le_succ _), ?_⟩
  · simp only [Writer.listed, Writer.hold, List.length_append, List.length_singleton] at hl ⊢
    omega
  · have := h5 hn
    simp only [Writer.listedStamps, this, List.map_nil, List.nil_append] at h7
    simpa [Writer.listedStamps, Writer.hold, this] using rising_push h7

theorem Writer.sound_setHalf (w : Writer) (c : Cab) (h : w.Sound) : (w.setHalf c).Sound := by
  unfold Writer.setHalf
  split <;> exact h

theorem Writer.sound_bar (w : Writer) (r : RecId) (h : w.Sound) : (w.bar r).Sound := w.sound_unplace r h

/-- A record taken out of both sets has no place in them. -/
theorem Writer.placed_unplace (w : Writer) (r : RecId) (h : w.Sound) : (w.unplace r).placed r = false := by
  have hn : w.lazySet.Nodup := (List.nodup_append.mp h.2.1).2.1
  simp [Writer.placed, Writer.inUrgent, Writer.inLazy, Writer.unplace, hn.mem_erase_iff]

/-- A mark of a record that is held back changes nothing. -/
theorem Tables.markUrgent_heldBack (u : Tables) (r : RecId) (h : u.heldBack r = true) : u.markUrgent r = u :=
  if_pos h

theorem Tables.markLazy_heldBack (u : Tables) (r : RecId) (h : u.heldBack r = true) : u.markLazy r = u := by
  simp [Tables.markLazy, Tables.markUrgent, h]

/-- A barred record is held back. -/
theorem Tables.heldBack_bar (u : Tables) (r : RecId) : (u.setWriter (u.writer.bar r)).heldBack r = true := by
  simp [Tables.heldBack, Writer.bar]

@[simp] theorem Writer.barred_bar (w : Writer) (r : RecId) : (w.bar r).barred = r :: w.barred := rfl
@[simp] theorem Writer.barredHalves_barHalf (w : Writer) (c : Cab) :
    (w.barHalf c).barredHalves = c :: w.barredHalves := rfl
@[simp] theorem Writer.half_barHalf (w : Writer) (c : Cab) : (w.barHalf c).half = w.half.put c false := rfl

/-- The half mark of a barred half is not set. -/
theorem Writer.setHalf_barred (w : Writer) (c : Cab) (h : c ∈ w.barredHalves) : w.setHalf c = w := by
  simp [Writer.setHalf, h]

/-- The places of a head whose `d` oldest entries are consumed. -/
theorem JHead.places_drop (h : JHead) (d : Nat) :
    (List.range (h.unconsumed - d)).map ({ h with unconsumed := h.unconsumed - d } : JHead).place =
      ((List.range h.unconsumed).map h.place).drop d := by
  rw [← List.map_drop]
  apply List.ext_getElem
  · simp
  · intro i h1 h2
    simp only [List.length_map, List.length_range, List.length_drop] at h1 h2
    simp only [List.getElem_map, List.getElem_range, List.getElem_drop, JHead.place, JHead.oldest]
    have hs : h.unconsumed = (h.unconsumed - d) + d := by omega
    generalize h.unconsumed - d = m at hs
    rw [hs]
    simp only [BitVec.ofNat_add]
    congr 1 <;> ring

theorem Writer.sound_consume (w : Writer) (d : Nat) (h : w.Sound) : (w.consume d).Sound := by
  obtain ⟨h1, h2, h3, h4, h5, h6, h7⟩ := h
  cases hh : w.head with
  | none =>
    simp only [Writer.places, hh, List.map_eq_nil_iff] at h3
    refine ⟨h1, h2, ?_, ?_, fun _ => h5 hh, h6, h7⟩
    · simp [Writer.consume, Writer.places, hh, h3]
    · simp [Writer.consume, Writer.unconsumed, hh]
  | some k =>
    simp only [Writer.places, hh] at h3
    simp only [Writer.unconsumed, hh] at h4
    refine ⟨h1, h2, ?_, ?_, ?_, h6, h7⟩
    · simp only [Writer.consume, Writer.places, hh, Option.map_some, List.map_drop, h3]
      exact (k.places_drop d).symm
    · simp only [Writer.consume, Writer.unconsumed, hh, Option.map_some]
      omega
    · simp [Writer.consume, hh]

theorem Writer.sound_flushLazy (w : Writer) (h : w.Sound) : w.flushLazy.Sound := by
  have key : ∀ (l : List RecId) (v : Writer), v.Sound → v.lazySet = [] →
      (v.urgent.map (·.what) ++ l).Nodup → (l.foldl (fun w r => w.joinUrgent r) v).Sound := by
    intro l
    induction l with
    | nil => intro v hv _ _; exact hv
    | cons r l ih =>
      intro v hv hl hn
      obtain ⟨h1, h2, h3, h4, h5, h6, h7⟩ := hv
      refine ih _ ⟨h1, ?_, h3, h4, h5, v.urgentStamps_join r h6, v.listedStamps_join r h7⟩ hl ?_
      · simp only [Writer.joinUrgent, hl, List.append_nil, List.map_append, List.map_cons, List.map_nil]
        refine hn.sublist (List.Sublist.append (List.Sublist.refl _) ?_)
        simp
      · simpa [Writer.joinUrgent] using hn
  obtain ⟨h1, h2, h3, h4, h5, h6, h7⟩ := h
  refine key w.lazySet _ ⟨h1, ?_, h3, h4, h5, h6, h7⟩ rfl h2
  simpa using (List.nodup_append.mp h2).1

theorem Writer.sound_dropPending (w : Writer) (q : Word32) (h : w.Sound) : (w.dropPending q).Sound := by
  obtain ⟨h1, h2, h3, h4, h5, h6, h7⟩ := h
  refine ⟨?_, h2, h3, h4, fun hn => by simp [Writer.dropPending, h5 hn], h6, ?_⟩
  · have := List.length_filter_le (fun e : PendEntry => e.entry.seq != q) w.pending
    simp only [Writer.listed, Writer.dropPending] at h1 ⊢
    omega
  · exact h7.sublist (List.Sublist.append (List.Sublist.refl _)
      (List.Sublist.append (List.filter_sublist.map _) (List.Sublist.refl _)))

/-! ## The tables' operations on the writer -/

theorem Tables.sound_evalAttn (u : Tables) (h : u.writer.Sound) : u.evalAttn.writer.Sound := h

theorem Tables.sound_markUrgent (u : Tables) (r : RecId) (h : u.writer.Sound) : (u.markUrgent r).writer.Sound := by
  unfold Tables.markUrgent
  split
  · exact h
  · exact Writer.sound_urgentMark _ _ h

theorem Tables.sound_markLazy (u : Tables) (r : RecId) (h : u.writer.Sound) : (u.markLazy r).writer.Sound := by
  unfold Tables.markLazy
  split
  · exact u.sound_markUrgent r h
  · split
    · exact h
    · exact Writer.sound_lazyMark _ _ h

theorem Tables.sound_markHalf (u : Tables) (c : Cab) (h : u.writer.Sound) : (u.markHalf c).writer.Sound := by
  unfold Tables.markHalf
  split
  · exact h
  · exact Tables.sound_markUrgent _ _ (Writer.sound_setHalf _ c h)

theorem Tables.sound_markIf (u : Tables) (r : RecId) (b l : Bool) (h : u.writer.Sound) :
    (u.markIf r b l).writer.Sound := by
  unfold Tables.markIf
  split
  · exact u.sound_markUrgent r h
  · split
    · exact u.sound_markLazy r h
    · exact h

theorem Tables.sound_takeEntry (u : Tables) (k k' : JHead) (e : RawEntry) (h : u.writer.Sound)
    (hs : u.writer.hasSpace = true) (hk' : u.writer.head = some k') (hk : k = { k' with lost := k.lost }) :
    (u.takeEntry k e).writer.Sound :=
  Tables.sound_evalAttn _ (Tables.sound_markUrgent _ _ (u.writer.sound_takeEntry k k' e h hs hk' hk))

theorem Tables.sound_tryLost (u : Tables) (h : u.writer.Sound) : u.tryLost.writer.Sound := by
  unfold Tables.tryLost
  split
  · next k hk =>
    split
    · next hc =>
      simp only [Bool.and_eq_true] at hc
      exact u.sound_takeEntry _ k _ h hc.2 hk rfl
    · exact h
  · exact h

theorem Tables.sound_setLost (u : Tables) (h : u.writer.Sound) : u.setLost.writer.Sound := by
  unfold Tables.setLost
  split
  · next k hk =>
    split
    · exact h
    · refine Tables.sound_markUrgent _ _ ?_
      obtain ⟨h1, h2, h3, h4, h5, h6, h7⟩ := h
      simp only [Writer.places, hk] at h3
      simp only [Writer.unconsumed, hk] at h4
      exact ⟨h1, h2, h3, h4, by simp, h6, h7⟩
  · exact h

theorem Tables.sound_submit (u : Tables) (e : RawEntry) (h : u.writer.Sound) : (u.submit e).writer.Sound := by
  unfold Tables.submit
  have h := u.sound_tryLost h
  dsimp only
  split
  · next k hk =>
    split
    · next hs => exact Tables.sound_takeEntry _ _ k _ h hs hk rfl
    · exact Tables.sound_setLost _ h
  · exact h

theorem Tables.sound_hold (u : Tables) (e : RawEntry) (h : u.writer.Sound) (hn : u.writer.head = none) :
    (u.hold e).writer.Sound := by
  unfold Tables.hold
  split
  · next hl => exact Tables.sound_markUrgent _ _ (u.writer.sound_hold e h hn hl)
  · exact h

theorem Tables.sound_journal (u : Tables) (k : JKind) (v : Severity) (n d : Byte) (x : Word32)
    (h : u.writer.Sound) : (u.journal k v n d x).writer.Sound := by
  unfold Tables.journal
  dsimp only
  split
  · exact h
  · split
    · exact u.sound_submit _ h
    · next hn => exact u.sound_hold _ h (by simpa using hn)

theorem Tables.sound_setLatch (u : Tables) (h : u.writer.Sound) : u.setLatch.writer.Sound := by
  unfold Tables.setLatch
  split
  · exact h
  · exact Tables.sound_evalAttn _ (Tables.sound_markUrgent _ _ h)

theorem Tables.sound_flushNow (u : Tables) (h : u.writer.Sound) : u.flushNow.writer.Sound :=
  u.writer.sound_flushLazy h

end Sys2Proof.Machine
end

