-- ==== Sys2Proof/Laws/WriterFrame.lean ====
section
/-! SUPPORT. Marks, journal entries, the lost mark, the latch and the flush leave every field but the writer as it
was: one lemma for each field and each operation. -/

-- One theorem at a time, for the reason Laws/State.lean gives.
set_option Elab.async false

namespace Sys2Proof.Machine

/-! ## `Tables.evalAttn` leaves everything but the writer -/

@[simp] theorem Tables.mode_evalAttn (u : Tables) : (u.evalAttn).mode = u.mode :=
  (u.only_evalAttn).mode
@[simp] theorem Tables.ready_evalAttn (u : Tables) : (u.evalAttn).ready = u.ready :=
  (u.only_evalAttn).ready
@[simp] theorem Tables.key_evalAttn (u : Tables) : (u.evalAttn).key = u.key :=
  (u.only_evalAttn).key
@[simp] theorem Tables.active_evalAttn (u : Tables) : (u.evalAttn).active = u.active :=
  (u.only_evalAttn).active
@[simp] theorem Tables.apply_evalAttn (u : Tables) : (u.evalAttn).apply = u.apply :=
  (u.only_evalAttn).apply
@[simp] theorem Tables.lock_evalAttn (u : Tables) : (u.evalAttn).lock = u.lock :=
  (u.only_evalAttn).lock
@[simp] theorem Tables.clock_evalAttn (u : Tables) : (u.evalAttn).clock = u.clock :=
  (u.only_evalAttn).clock
@[simp] theorem Tables.synced_evalAttn (u : Tables) : (u.evalAttn).synced = u.synced :=
  (u.only_evalAttn).synced
@[simp] theorem Tables.advancing_evalAttn (u : Tables) : (u.evalAttn).advancing = u.advancing :=
  (u.only_evalAttn).advancing
@[simp] theorem Tables.lastConsumed_evalAttn (u : Tables) : (u.evalAttn).lastConsumed = u.lastConsumed :=
  (u.only_evalAttn).lastConsumed
@[simp] theorem Tables.genLow_evalAttn (u : Tables) : (u.evalAttn).genLow = u.genLow :=
  (u.only_evalAttn).genLow
@[simp] theorem Tables.genHigh_evalAttn (u : Tables) : (u.evalAttn).genHigh = u.genHigh :=
  (u.only_evalAttn).genHigh
@[simp] theorem Tables.cabs_evalAttn (u : Tables) : (u.evalAttn).cabs = u.cabs :=
  (u.only_evalAttn).cabs
@[simp] theorem Tables.groups_evalAttn (u : Tables) : (u.evalAttn).groups = u.groups :=
  (u.only_evalAttn).groups
@[simp] theorem Tables.strings_evalAttn (u : Tables) : (u.evalAttn).strings = u.strings :=
  (u.only_evalAttn).strings
@[simp] theorem Tables.visits_evalAttn (u : Tables) : (u.evalAttn).visits = u.visits :=
  (u.only_evalAttn).visits
@[simp] theorem Tables.orders_evalAttn (u : Tables) : (u.evalAttn).orders = u.orders :=
  (u.only_evalAttn).orders
@[simp] theorem Tables.spent_evalAttn (u : Tables) : (u.evalAttn).spent = u.spent :=
  (u.only_evalAttn).spent
@[simp] theorem Tables.recalling_evalAttn (u : Tables) : (u.evalAttn).recalling = u.recalling :=
  (u.only_evalAttn).recalling
@[simp] theorem Tables.cab_evalAttn (u : Tables) (y : Cab) : (u.evalAttn).cab y = u.cab y :=
  (u.only_evalAttn).cab y
@[simp] theorem Tables.grp_evalAttn (u : Tables) (y : Grp) : (u.evalAttn).grp y = u.grp y :=
  (u.only_evalAttn).grp y
@[simp] theorem Tables.str_evalAttn (u : Tables) (y : Str) : (u.evalAttn).str y = u.str y :=
  (u.only_evalAttn).str y
@[simp] theorem Tables.vis_evalAttn (u : Tables) (y : Con) : (u.evalAttn).vis y = u.vis y :=
  (u.only_evalAttn).vis y
@[simp] theorem Tables.ord_evalAttn (u : Tables) (y : Slot) : (u.evalAttn).ord y = u.ord y :=
  (u.only_evalAttn).ord y
@[simp] theorem Tables.cabCfg_evalAttn (u : Tables) (y : Cab) : (u.evalAttn).cabCfg y = u.cabCfg y :=
  (u.only_evalAttn).cabCfg y
@[simp] theorem Tables.present_evalAttn (u : Tables) (y : Cab) : (u.evalAttn).present y = u.present y :=
  (u.only_evalAttn).present y
@[simp] theorem Tables.groupOf_evalAttn (u : Tables) (y : Cab) : (u.evalAttn).groupOf y = u.groupOf y :=
  (u.only_evalAttn).groupOf y
@[simp] theorem Tables.grpCfg_evalAttn (u : Tables) (y : Grp) : (u.evalAttn).grpCfg y = u.grpCfg y :=
  (u.only_evalAttn).grpCfg y
@[simp] theorem Tables.members_evalAttn (u : Tables) (y : Grp) : (u.evalAttn).members y = u.members y :=
  (u.only_evalAttn).members y
@[simp] theorem Tables.owner_evalAttn (u : Tables) (y : Str) : (u.evalAttn).owner y = u.owner y :=
  (u.only_evalAttn).owner y
@[simp] theorem Tables.place_evalAttn (u : Tables) (y : Str) : (u.evalAttn).place y = u.place y :=
  (u.only_evalAttn).place y
@[simp] theorem Tables.limit_evalAttn (u : Tables) (f : Block → Nat) : (u.evalAttn).limit f = u.limit f :=
  (u.only_evalAttn).limit f

/-! ## `Tables.markUrgent` leaves everything but the writer -/

@[simp] theorem Tables.mode_markUrgent (u : Tables) (r : RecId) : (u.markUrgent r).mode = u.mode :=
  (u.only_markUrgent r).mode
@[simp] theorem Tables.ready_markUrgent (u : Tables) (r : RecId) : (u.markUrgent r).ready = u.ready :=
  (u.only_markUrgent r).ready
@[simp] theorem Tables.key_markUrgent (u : Tables) (r : RecId) : (u.markUrgent r).key = u.key :=
  (u.only_markUrgent r).key
@[simp] theorem Tables.active_markUrgent (u : Tables) (r : RecId) : (u.markUrgent r).active = u.active :=
  (u.only_markUrgent r).active
@[simp] theorem Tables.apply_markUrgent (u : Tables) (r : RecId) : (u.markUrgent r).apply = u.apply :=
  (u.only_markUrgent r).apply
@[simp] theorem Tables.lock_markUrgent (u : Tables) (r : RecId) : (u.markUrgent r).lock = u.lock :=
  (u.only_markUrgent r).lock
@[simp] theorem Tables.clock_markUrgent (u : Tables) (r : RecId) : (u.markUrgent r).clock = u.clock :=
  (u.only_markUrgent r).clock
@[simp] theorem Tables.synced_markUrgent (u : Tables) (r : RecId) : (u.markUrgent r).synced = u.synced :=
  (u.only_markUrgent r).synced
@[simp] theorem Tables.advancing_markUrgent (u : Tables) (r : RecId) : (u.markUrgent r).advancing = u.advancing :=
  (u.only_markUrgent r).advancing
@[simp] theorem Tables.lastConsumed_markUrgent (u : Tables) (r : RecId) : (u.markUrgent r).lastConsumed = u.lastConsumed :=
  (u.only_markUrgent r).lastConsumed
@[simp] theorem Tables.genLow_markUrgent (u : Tables) (r : RecId) : (u.markUrgent r).genLow = u.genLow :=
  (u.only_markUrgent r).genLow
@[simp] theorem Tables.genHigh_markUrgent (u : Tables) (r : RecId) : (u.markUrgent r).genHigh = u.genHigh :=
  (u.only_markUrgent r).genHigh
@[simp] theorem Tables.cabs_markUrgent (u : Tables) (r : RecId) : (u.markUrgent r).cabs = u.cabs :=
  (u.only_markUrgent r).cabs
@[simp] theorem Tables.groups_markUrgent (u : Tables) (r : RecId) : (u.markUrgent r).groups = u.groups :=
  (u.only_markUrgent r).groups
@[simp] theorem Tables.strings_markUrgent (u : Tables) (r : RecId) : (u.markUrgent r).strings = u.strings :=
  (u.only_markUrgent r).strings
@[simp] theorem Tables.visits_markUrgent (u : Tables) (r : RecId) : (u.markUrgent r).visits = u.visits :=
  (u.only_markUrgent r).visits
@[simp] theorem Tables.orders_markUrgent (u : Tables) (r : RecId) : (u.markUrgent r).orders = u.orders :=
  (u.only_markUrgent r).orders
@[simp] theorem Tables.spent_markUrgent (u : Tables) (r : RecId) : (u.markUrgent r).spent = u.spent :=
  (u.only_markUrgent r).spent
@[simp] theorem Tables.recalling_markUrgent (u : Tables) (r : RecId) : (u.markUrgent r).recalling = u.recalling :=
  (u.only_markUrgent r).recalling
@[simp] theorem Tables.cab_markUrgent (u : Tables) (r : RecId) (y : Cab) : (u.markUrgent r).cab y = u.cab y :=
  (u.only_markUrgent r).cab y
@[simp] theorem Tables.grp_markUrgent (u : Tables) (r : RecId) (y : Grp) : (u.markUrgent r).grp y = u.grp y :=
  (u.only_markUrgent r).grp y
@[simp] theorem Tables.str_markUrgent (u : Tables) (r : RecId) (y : Str) : (u.markUrgent r).str y = u.str y :=
  (u.only_markUrgent r).str y
@[simp] theorem Tables.vis_markUrgent (u : Tables) (r : RecId) (y : Con) : (u.markUrgent r).vis y = u.vis y :=
  (u.only_markUrgent r).vis y
@[simp] theorem Tables.ord_markUrgent (u : Tables) (r : RecId) (y : Slot) : (u.markUrgent r).ord y = u.ord y :=
  (u.only_markUrgent r).ord y
@[simp] theorem Tables.cabCfg_markUrgent (u : Tables) (r : RecId) (y : Cab) : (u.markUrgent r).cabCfg y = u.cabCfg y :=
  (u.only_markUrgent r).cabCfg y
@[simp] theorem Tables.present_markUrgent (u : Tables) (r : RecId) (y : Cab) : (u.markUrgent r).present y = u.present y :=
  (u.only_markUrgent r).present y
@[simp] theorem Tables.groupOf_markUrgent (u : Tables) (r : RecId) (y : Cab) : (u.markUrgent r).groupOf y = u.groupOf y :=
  (u.only_markUrgent r).groupOf y
@[simp] theorem Tables.grpCfg_markUrgent (u : Tables) (r : RecId) (y : Grp) : (u.markUrgent r).grpCfg y = u.grpCfg y :=
  (u.only_markUrgent r).grpCfg y
@[simp] theorem Tables.members_markUrgent (u : Tables) (r : RecId) (y : Grp) : (u.markUrgent r).members y = u.members y :=
  (u.only_markUrgent r).members y
@[simp] theorem Tables.owner_markUrgent (u : Tables) (r : RecId) (y : Str) : (u.markUrgent r).owner y = u.owner y :=
  (u.only_markUrgent r).owner y
@[simp] theorem Tables.place_markUrgent (u : Tables) (r : RecId) (y : Str) : (u.markUrgent r).place y = u.place y :=
  (u.only_markUrgent r).place y
@[simp] theorem Tables.limit_markUrgent (u : Tables) (r : RecId) (f : Block → Nat) : (u.markUrgent r).limit f = u.limit f :=
  (u.only_markUrgent r).limit f

/-! ## `Tables.markLazy` leaves everything but the writer -/

@[simp] theorem Tables.mode_markLazy (u : Tables) (r : RecId) : (u.markLazy r).mode = u.mode :=
  (u.only_markLazy r).mode
@[simp] theorem Tables.ready_markLazy (u : Tables) (r : RecId) : (u.markLazy r).ready = u.ready :=
  (u.only_markLazy r).ready
@[simp] theorem Tables.key_markLazy (u : Tables) (r : RecId) : (u.markLazy r).key = u.key :=
  (u.only_markLazy r).key
@[simp] theorem Tables.active_markLazy (u : Tables) (r : RecId) : (u.markLazy r).active = u.active :=
  (u.only_markLazy r).active
@[simp] theorem Tables.apply_markLazy (u : Tables) (r : RecId) : (u.markLazy r).apply = u.apply :=
  (u.only_markLazy r).apply
@[simp] theorem Tables.lock_markLazy (u : Tables) (r : RecId) : (u.markLazy r).lock = u.lock :=
  (u.only_markLazy r).lock
@[simp] theorem Tables.clock_markLazy (u : Tables) (r : RecId) : (u.markLazy r).clock = u.clock :=
  (u.only_markLazy r).clock
@[simp] theorem Tables.synced_markLazy (u : Tables) (r : RecId) : (u.markLazy r).synced = u.synced :=
  (u.only_markLazy r).synced
@[simp] theorem Tables.advancing_markLazy (u : Tables) (r : RecId) : (u.markLazy r).advancing = u.advancing :=
  (u.only_markLazy r).advancing
@[simp] theorem Tables.lastConsumed_markLazy (u : Tables) (r : RecId) : (u.markLazy r).lastConsumed = u.lastConsumed :=
  (u.only_markLazy r).lastConsumed
@[simp] theorem Tables.genLow_markLazy (u : Tables) (r : RecId) : (u.markLazy r).genLow = u.genLow :=
  (u.only_markLazy r).genLow
@[simp] theorem Tables.genHigh_markLazy (u : Tables) (r : RecId) : (u.markLazy r).genHigh = u.genHigh :=
  (u.only_markLazy r).genHigh
@[simp] theorem Tables.cabs_markLazy (u : Tables) (r : RecId) : (u.markLazy r).cabs = u.cabs :=
  (u.only_markLazy r).cabs
@[simp] theorem Tables.groups_markLazy (u : Tables) (r : RecId) : (u.markLazy r).groups = u.groups :=
  (u.only_markLazy r).groups
@[simp] theorem Tables.strings_markLazy (u : Tables) (r : RecId) : (u.markLazy r).strings = u.strings :=
  (u.only_markLazy r).strings
@[simp] theorem Tables.visits_markLazy (u : Tables) (r : RecId) : (u.markLazy r).visits = u.visits :=
  (u.only_markLazy r).visits
@[simp] theorem Tables.orders_markLazy (u : Tables) (r : RecId) : (u.markLazy r).orders = u.orders :=
  (u.only_markLazy r).orders
@[simp] theorem Tables.spent_markLazy (u : Tables) (r : RecId) : (u.markLazy r).spent = u.spent :=
  (u.only_markLazy r).spent
@[simp] theorem Tables.recalling_markLazy (u : Tables) (r : RecId) : (u.markLazy r).recalling = u.recalling :=
  (u.only_markLazy r).recalling
@[simp] theorem Tables.cab_markLazy (u : Tables) (r : RecId) (y : Cab) : (u.markLazy r).cab y = u.cab y :=
  (u.only_markLazy r).cab y
@[simp] theorem Tables.grp_markLazy (u : Tables) (r : RecId) (y : Grp) : (u.markLazy r).grp y = u.grp y :=
  (u.only_markLazy r).grp y
@[simp] theorem Tables.str_markLazy (u : Tables) (r : RecId) (y : Str) : (u.markLazy r).str y = u.str y :=
  (u.only_markLazy r).str y
@[simp] theorem Tables.vis_markLazy (u : Tables) (r : RecId) (y : Con) : (u.markLazy r).vis y = u.vis y :=
  (u.only_markLazy r).vis y
@[simp] theorem Tables.ord_markLazy (u : Tables) (r : RecId) (y : Slot) : (u.markLazy r).ord y = u.ord y :=
  (u.only_markLazy r).ord y
@[simp] theorem Tables.cabCfg_markLazy (u : Tables) (r : RecId) (y : Cab) : (u.markLazy r).cabCfg y = u.cabCfg y :=
  (u.only_markLazy r).cabCfg y
@[simp] theorem Tables.present_markLazy (u : Tables) (r : RecId) (y : Cab) : (u.markLazy r).present y = u.present y :=
  (u.only_markLazy r).present y
@[simp] theorem Tables.groupOf_markLazy (u : Tables) (r : RecId) (y : Cab) : (u.markLazy r).groupOf y = u.groupOf y :=
  (u.only_markLazy r).groupOf y
@[simp] theorem Tables.grpCfg_markLazy (u : Tables) (r : RecId) (y : Grp) : (u.markLazy r).grpCfg y = u.grpCfg y :=
  (u.only_markLazy r).grpCfg y
@[simp] theorem Tables.members_markLazy (u : Tables) (r : RecId) (y : Grp) : (u.markLazy r).members y = u.members y :=
  (u.only_markLazy r).members y
@[simp] theorem Tables.owner_markLazy (u : Tables) (r : RecId) (y : Str) : (u.markLazy r).owner y = u.owner y :=
  (u.only_markLazy r).owner y
@[simp] theorem Tables.place_markLazy (u : Tables) (r : RecId) (y : Str) : (u.markLazy r).place y = u.place y :=
  (u.only_markLazy r).place y
@[simp] theorem Tables.limit_markLazy (u : Tables) (r : RecId) (f : Block → Nat) : (u.markLazy r).limit f = u.limit f :=
  (u.only_markLazy r).limit f

/-! ## `Tables.markHalf` leaves everything but the writer -/

@[simp] theorem Tables.mode_markHalf (u : Tables) (c : Cab) : (u.markHalf c).mode = u.mode :=
  (u.only_markHalf c).mode
@[simp] theorem Tables.ready_markHalf (u : Tables) (c : Cab) : (u.markHalf c).ready = u.ready :=
  (u.only_markHalf c).ready
@[simp] theorem Tables.key_markHalf (u : Tables) (c : Cab) : (u.markHalf c).key = u.key :=
  (u.only_markHalf c).key
@[simp] theorem Tables.active_markHalf (u : Tables) (c : Cab) : (u.markHalf c).active = u.active :=
  (u.only_markHalf c).active
@[simp] theorem Tables.apply_markHalf (u : Tables) (c : Cab) : (u.markHalf c).apply = u.apply :=
  (u.only_markHalf c).apply
@[simp] theorem Tables.lock_markHalf (u : Tables) (c : Cab) : (u.markHalf c).lock = u.lock :=
  (u.only_markHalf c).lock
@[simp] theorem Tables.clock_markHalf (u : Tables) (c : Cab) : (u.markHalf c).clock = u.clock :=
  (u.only_markHalf c).clock
@[simp] theorem Tables.synced_markHalf (u : Tables) (c : Cab) : (u.markHalf c).synced = u.synced :=
  (u.only_markHalf c).synced
@[simp] theorem Tables.advancing_markHalf (u : Tables) (c : Cab) : (u.markHalf c).advancing = u.advancing :=
  (u.only_markHalf c).advancing
@[simp] theorem Tables.lastConsumed_markHalf (u : Tables) (c : Cab) : (u.markHalf c).lastConsumed = u.lastConsumed :=
  (u.only_markHalf c).lastConsumed
@[simp] theorem Tables.genLow_markHalf (u : Tables) (c : Cab) : (u.markHalf c).genLow = u.genLow :=
  (u.only_markHalf c).genLow
@[simp] theorem Tables.genHigh_markHalf (u : Tables) (c : Cab) : (u.markHalf c).genHigh = u.genHigh :=
  (u.only_markHalf c).genHigh
@[simp] theorem Tables.cabs_markHalf (u : Tables) (c : Cab) : (u.markHalf c).cabs = u.cabs :=
  (u.only_markHalf c).cabs
@[simp] theorem Tables.groups_markHalf (u : Tables) (c : Cab) : (u.markHalf c).groups = u.groups :=
  (u.only_markHalf c).groups
@[simp] theorem Tables.strings_markHalf (u : Tables) (c : Cab) : (u.markHalf c).strings = u.strings :=
  (u.only_markHalf c).strings
@[simp] theorem Tables.visits_markHalf (u : Tables) (c : Cab) : (u.markHalf c).visits = u.visits :=
  (u.only_markHalf c).visits
@[simp] theorem Tables.orders_markHalf (u : Tables) (c : Cab) : (u.markHalf c).orders = u.orders :=
  (u.only_markHalf c).orders
@[simp] theorem Tables.spent_markHalf (u : Tables) (c : Cab) : (u.markHalf c).spent = u.spent :=
  (u.only_markHalf c).spent
@[simp] theorem Tables.recalling_markHalf (u : Tables) (c : Cab) : (u.markHalf c).recalling = u.recalling :=
  (u.only_markHalf c).recalling
@[simp] theorem Tables.cab_markHalf (u : Tables) (c : Cab) (y : Cab) : (u.markHalf c).cab y = u.cab y :=
  (u.only_markHalf c).cab y
@[simp] theorem Tables.grp_markHalf (u : Tables) (c : Cab) (y : Grp) : (u.markHalf c).grp y = u.grp y :=
  (u.only_markHalf c).grp y
@[simp] theorem Tables.str_markHalf (u : Tables) (c : Cab) (y : Str) : (u.markHalf c).str y = u.str y :=
  (u.only_markHalf c).str y
@[simp] theorem Tables.vis_markHalf (u : Tables) (c : Cab) (y : Con) : (u.markHalf c).vis y = u.vis y :=
  (u.only_markHalf c).vis y
@[simp] theorem Tables.ord_markHalf (u : Tables) (c : Cab) (y : Slot) : (u.markHalf c).ord y = u.ord y :=
  (u.only_markHalf c).ord y
@[simp] theorem Tables.cabCfg_markHalf (u : Tables) (c : Cab) (y : Cab) : (u.markHalf c).cabCfg y = u.cabCfg y :=
  (u.only_markHalf c).cabCfg y
@[simp] theorem Tables.present_markHalf (u : Tables) (c : Cab) (y : Cab) : (u.markHalf c).present y = u.present y :=
  (u.only_markHalf c).present y
@[simp] theorem Tables.groupOf_markHalf (u : Tables) (c : Cab) (y : Cab) : (u.markHalf c).groupOf y = u.groupOf y :=
  (u.only_markHalf c).groupOf y
@[simp] theorem Tables.grpCfg_markHalf (u : Tables) (c : Cab) (y : Grp) : (u.markHalf c).grpCfg y = u.grpCfg y :=
  (u.only_markHalf c).grpCfg y
@[simp] theorem Tables.members_markHalf (u : Tables) (c : Cab) (y : Grp) : (u.markHalf c).members y = u.members y :=
  (u.only_markHalf c).members y
@[simp] theorem Tables.owner_markHalf (u : Tables) (c : Cab) (y : Str) : (u.markHalf c).owner y = u.owner y :=
  (u.only_markHalf c).owner y
@[simp] theorem Tables.place_markHalf (u : Tables) (c : Cab) (y : Str) : (u.markHalf c).place y = u.place y :=
  (u.only_markHalf c).place y
@[simp] theorem Tables.limit_markHalf (u : Tables) (c : Cab) (f : Block → Nat) : (u.markHalf c).limit f = u.limit f :=
  (u.only_markHalf c).limit f

/-! ## `Tables.markIf` leaves everything but the writer -/

@[simp] theorem Tables.mode_markIf (u : Tables) (r : RecId) (b l : Bool) : (u.markIf r b l).mode = u.mode :=
  (u.only_markIf r b l).mode
@[simp] theorem Tables.ready_markIf (u : Tables) (r : RecId) (b l : Bool) : (u.markIf r b l).ready = u.ready :=
  (u.only_markIf r b l).ready
@[simp] theorem Tables.key_markIf (u : Tables) (r : RecId) (b l : Bool) : (u.markIf r b l).key = u.key :=
  (u.only_markIf r b l).key
@[simp] theorem Tables.active_markIf (u : Tables) (r : RecId) (b l : Bool) : (u.markIf r b l).active = u.active :=
  (u.only_markIf r b l).active
@[simp] theorem Tables.apply_markIf (u : Tables) (r : RecId) (b l : Bool) : (u.markIf r b l).apply = u.apply :=
  (u.only_markIf r b l).apply
@[simp] theorem Tables.lock_markIf (u : Tables) (r : RecId) (b l : Bool) : (u.markIf r b l).lock = u.lock :=
  (u.only_markIf r b l).lock
@[simp] theorem Tables.clock_markIf (u : Tables) (r : RecId) (b l : Bool) : (u.markIf r b l).clock = u.clock :=
  (u.only_markIf r b l).clock
@[simp] theorem Tables.synced_markIf (u : Tables) (r : RecId) (b l : Bool) : (u.markIf r b l).synced = u.synced :=
  (u.only_markIf r b l).synced
@[simp] theorem Tables.advancing_markIf (u : Tables) (r : RecId) (b l : Bool) : (u.markIf r b l).advancing = u.advancing :=
  (u.only_markIf r b l).advancing
@[simp] theorem Tables.lastConsumed_markIf (u : Tables) (r : RecId) (b l : Bool) : (u.markIf r b l).lastConsumed = u.lastConsumed :=
  (u.only_markIf r b l).lastConsumed
@[simp] theorem Tables.genLow_markIf (u : Tables) (r : RecId) (b l : Bool) : (u.markIf r b l).genLow = u.genLow :=
  (u.only_markIf r b l).genLow
@[simp] theorem Tables.genHigh_markIf (u : Tables) (r : RecId) (b l : Bool) : (u.markIf r b l).genHigh = u.genHigh :=
  (u.only_markIf r b l).genHigh
@[simp] theorem Tables.cabs_markIf (u : Tables) (r : RecId) (b l : Bool) : (u.markIf r b l).cabs = u.cabs :=
  (u.only_markIf r b l).cabs
@[simp] theorem Tables.groups_markIf (u : Tables) (r : RecId) (b l : Bool) : (u.markIf r b l).groups = u.groups :=
  (u.only_markIf r b l).groups
@[simp] theorem Tables.strings_markIf (u : Tables) (r : RecId) (b l : Bool) : (u.markIf r b l).strings = u.strings :=
  (u.only_markIf r b l).strings
@[simp] theorem Tables.visits_markIf (u : Tables) (r : RecId) (b l : Bool) : (u.markIf r b l).visits = u.visits :=
  (u.only_markIf r b l).visits
@[simp] theorem Tables.orders_markIf (u : Tables) (r : RecId) (b l : Bool) : (u.markIf r b l).orders = u.orders :=
  (u.only_markIf r b l).orders
@[simp] theorem Tables.spent_markIf (u : Tables) (r : RecId) (b l : Bool) : (u.markIf r b l).spent = u.spent :=
  (u.only_markIf r b l).spent
@[simp] theorem Tables.recalling_markIf (u : Tables) (r : RecId) (b l : Bool) : (u.markIf r b l).recalling = u.recalling :=
  (u.only_markIf r b l).recalling
@[simp] theorem Tables.cab_markIf (u : Tables) (r : RecId) (b l : Bool) (y : Cab) : (u.markIf r b l).cab y = u.cab y :=
  (u.only_markIf r b l).cab y
@[simp] theorem Tables.grp_markIf (u : Tables) (r : RecId) (b l : Bool) (y : Grp) : (u.markIf r b l).grp y = u.grp y :=
  (u.only_markIf r b l).grp y
@[simp] theorem Tables.str_markIf (u : Tables) (r : RecId) (b l : Bool) (y : Str) : (u.markIf r b l).str y = u.str y :=
  (u.only_markIf r b l).str y
@[simp] theorem Tables.vis_markIf (u : Tables) (r : RecId) (b l : Bool) (y : Con) : (u.markIf r b l).vis y = u.vis y :=
  (u.only_markIf r b l).vis y
@[simp] theorem Tables.ord_markIf (u : Tables) (r : RecId) (b l : Bool) (y : Slot) : (u.markIf r b l).ord y = u.ord y :=
  (u.only_markIf r b l).ord y
@[simp] theorem Tables.cabCfg_markIf (u : Tables) (r : RecId) (b l : Bool) (y : Cab) : (u.markIf r b l).cabCfg y = u.cabCfg y :=
  (u.only_markIf r b l).cabCfg y
@[simp] theorem Tables.present_markIf (u : Tables) (r : RecId) (b l : Bool) (y : Cab) : (u.markIf r b l).present y = u.present y :=
  (u.only_markIf r b l).present y
@[simp] theorem Tables.groupOf_markIf (u : Tables) (r : RecId) (b l : Bool) (y : Cab) : (u.markIf r b l).groupOf y = u.groupOf y :=
  (u.only_markIf r b l).groupOf y
@[simp] theorem Tables.grpCfg_markIf (u : Tables) (r : RecId) (b l : Bool) (y : Grp) : (u.markIf r b l).grpCfg y = u.grpCfg y :=
  (u.only_markIf r b l).grpCfg y
@[simp] theorem Tables.members_markIf (u : Tables) (r : RecId) (b l : Bool) (y : Grp) : (u.markIf r b l).members y = u.members y :=
  (u.only_markIf r b l).members y
@[simp] theorem Tables.owner_markIf (u : Tables) (r : RecId) (b l : Bool) (y : Str) : (u.markIf r b l).owner y = u.owner y :=
  (u.only_markIf r b l).owner y
@[simp] theorem Tables.place_markIf (u : Tables) (r : RecId) (b l : Bool) (y : Str) : (u.markIf r b l).place y = u.place y :=
  (u.only_markIf r b l).place y
@[simp] theorem Tables.limit_markIf (u : Tables) (r : RecId) (b l : Bool) (f : Block → Nat) : (u.markIf r b l).limit f = u.limit f :=
  (u.only_markIf r b l).limit f

/-! ## `Tables.setLost` leaves everything but the writer -/

@[simp] theorem Tables.mode_setLost (u : Tables) : (u.setLost).mode = u.mode :=
  (u.only_setLost).mode
@[simp] theorem Tables.ready_setLost (u : Tables) : (u.setLost).ready = u.ready :=
  (u.only_setLost).ready
@[simp] theorem Tables.key_setLost (u : Tables) : (u.setLost).key = u.key :=
  (u.only_setLost).key
@[simp] theorem Tables.active_setLost (u : Tables) : (u.setLost).active = u.active :=
  (u.only_setLost).active
@[simp] theorem Tables.apply_setLost (u : Tables) : (u.setLost).apply = u.apply :=
  (u.only_setLost).apply
@[simp] theorem Tables.lock_setLost (u : Tables) : (u.setLost).lock = u.lock :=
  (u.only_setLost).lock
@[simp] theorem Tables.clock_setLost (u : Tables) : (u.setLost).clock = u.clock :=
  (u.only_setLost).clock
@[simp] theorem Tables.synced_setLost (u : Tables) : (u.setLost).synced = u.synced :=
  (u.only_setLost).synced
@[simp] theorem Tables.advancing_setLost (u : Tables) : (u.setLost).advancing = u.advancing :=
  (u.only_setLost).advancing
@[simp] theorem Tables.lastConsumed_setLost (u : Tables) : (u.setLost).lastConsumed = u.lastConsumed :=
  (u.only_setLost).lastConsumed
@[simp] theorem Tables.genLow_setLost (u : Tables) : (u.setLost).genLow = u.genLow :=
  (u.only_setLost).genLow
@[simp] theorem Tables.genHigh_setLost (u : Tables) : (u.setLost).genHigh = u.genHigh :=
  (u.only_setLost).genHigh
@[simp] theorem Tables.cabs_setLost (u : Tables) : (u.setLost).cabs = u.cabs :=
  (u.only_setLost).cabs
@[simp] theorem Tables.groups_setLost (u : Tables) : (u.setLost).groups = u.groups :=
  (u.only_setLost).groups
@[simp] theorem Tables.strings_setLost (u : Tables) : (u.setLost).strings = u.strings :=
  (u.only_setLost).strings
@[simp] theorem Tables.visits_setLost (u : Tables) : (u.setLost).visits = u.visits :=
  (u.only_setLost).visits
@[simp] theorem Tables.orders_setLost (u : Tables) : (u.setLost).orders = u.orders :=
  (u.only_setLost).orders
@[simp] theorem Tables.spent_setLost (u : Tables) : (u.setLost).spent = u.spent :=
  (u.only_setLost).spent
@[simp] theorem Tables.recalling_setLost (u : Tables) : (u.setLost).recalling = u.recalling :=
  (u.only_setLost).recalling

/-! ## `Tables.tryLost` leaves everything but the writer -/

@[simp] theorem Tables.mode_tryLost (u : Tables) : (u.tryLost).mode = u.mode :=
  (u.only_tryLost).mode
@[simp] theorem Tables.ready_tryLost (u : Tables) : (u.tryLost).ready = u.ready :=
  (u.only_tryLost).ready
@[simp] theorem Tables.key_tryLost (u : Tables) : (u.tryLost).key = u.key :=
  (u.only_tryLost).key
@[simp] theorem Tables.active_tryLost (u : Tables) : (u.tryLost).active = u.active :=
  (u.only_tryLost).active
@[simp] theorem Tables.apply_tryLost (u : Tables) : (u.tryLost).apply = u.apply :=
  (u.only_tryLost).apply
@[simp] theorem Tables.lock_tryLost (u : Tables) : (u.tryLost).lock = u.lock :=
  (u.only_tryLost).lock
@[simp] theorem Tables.clock_tryLost (u : Tables) : (u.tryLost).clock = u.clock :=
  (u.only_tryLost).clock
@[simp] theorem Tables.synced_tryLost (u : Tables) : (u.tryLost).synced = u.synced :=
  (u.only_tryLost).synced
@[simp] theorem Tables.advancing_tryLost (u : Tables) : (u.tryLost).advancing = u.advancing :=
  (u.only_tryLost).advancing
@[simp] theorem Tables.lastConsumed_tryLost (u : Tables) : (u.tryLost).lastConsumed = u.lastConsumed :=
  (u.only_tryLost).lastConsumed
@[simp] theorem Tables.genLow_tryLost (u : Tables) : (u.tryLost).genLow = u.genLow :=
  (u.only_tryLost).genLow
@[simp] theorem Tables.genHigh_tryLost (u : Tables) : (u.tryLost).genHigh = u.genHigh :=
  (u.only_tryLost).genHigh
@[simp] theorem Tables.cabs_tryLost (u : Tables) : (u.tryLost).cabs = u.cabs :=
  (u.only_tryLost).cabs
@[simp] theorem Tables.groups_tryLost (u : Tables) : (u.tryLost).groups = u.groups :=
  (u.only_tryLost).groups
@[simp] theorem Tables.strings_tryLost (u : Tables) : (u.tryLost).strings = u.strings :=
  (u.only_tryLost).strings
@[simp] theorem Tables.visits_tryLost (u : Tables) : (u.tryLost).visits = u.visits :=
  (u.only_tryLost).visits
@[simp] theorem Tables.orders_tryLost (u : Tables) : (u.tryLost).orders = u.orders :=
  (u.only_tryLost).orders
@[simp] theorem Tables.spent_tryLost (u : Tables) : (u.tryLost).spent = u.spent :=
  (u.only_tryLost).spent
@[simp] theorem Tables.recalling_tryLost (u : Tables) : (u.tryLost).recalling = u.recalling :=
  (u.only_tryLost).recalling

/-! ## `Tables.submit` leaves everything but the writer -/

@[simp] theorem Tables.mode_submit (u : Tables) (e : RawEntry) : (u.submit e).mode = u.mode :=
  (u.only_submit e).mode
@[simp] theorem Tables.ready_submit (u : Tables) (e : RawEntry) : (u.submit e).ready = u.ready :=
  (u.only_submit e).ready
@[simp] theorem Tables.key_submit (u : Tables) (e : RawEntry) : (u.submit e).key = u.key :=
  (u.only_submit e).key
@[simp] theorem Tables.active_submit (u : Tables) (e : RawEntry) : (u.submit e).active = u.active :=
  (u.only_submit e).active
@[simp] theorem Tables.apply_submit (u : Tables) (e : RawEntry) : (u.submit e).apply = u.apply :=
  (u.only_submit e).apply
@[simp] theorem Tables.lock_submit (u : Tables) (e : RawEntry) : (u.submit e).lock = u.lock :=
  (u.only_submit e).lock
@[simp] theorem Tables.clock_submit (u : Tables) (e : RawEntry) : (u.submit e).clock = u.clock :=
  (u.only_submit e).clock
@[simp] theorem Tables.synced_submit (u : Tables) (e : RawEntry) : (u.submit e).synced = u.synced :=
  (u.only_submit e).synced
@[simp] theorem Tables.advancing_submit (u : Tables) (e : RawEntry) : (u.submit e).advancing = u.advancing :=
  (u.only_submit e).advancing
@[simp] theorem Tables.lastConsumed_submit (u : Tables) (e : RawEntry) : (u.submit e).lastConsumed = u.lastConsumed :=
  (u.only_submit e).lastConsumed
@[simp] theorem Tables.genLow_submit (u : Tables) (e : RawEntry) : (u.submit e).genLow = u.genLow :=
  (u.only_submit e).genLow
@[simp] theorem Tables.genHigh_submit (u : Tables) (e : RawEntry) : (u.submit e).genHigh = u.genHigh :=
  (u.only_submit e).genHigh
@[simp] theorem Tables.cabs_submit (u : Tables) (e : RawEntry) : (u.submit e).cabs = u.cabs :=
  (u.only_submit e).cabs
@[simp] theorem Tables.groups_submit (u : Tables) (e : RawEntry) : (u.submit e).groups = u.groups :=
  (u.only_submit e).groups
@[simp] theorem Tables.strings_submit (u : Tables) (e : RawEntry) : (u.submit e).strings = u.strings :=
  (u.only_submit e).strings
@[simp] theorem Tables.visits_submit (u : Tables) (e : RawEntry) : (u.submit e).visits = u.visits :=
  (u.only_submit e).visits
@[simp] theorem Tables.orders_submit (u : Tables) (e : RawEntry) : (u.submit e).orders = u.orders :=
  (u.only_submit e).orders
@[simp] theorem Tables.spent_submit (u : Tables) (e : RawEntry) : (u.submit e).spent = u.spent :=
  (u.only_submit e).spent
@[simp] theorem Tables.recalling_submit (u : Tables) (e : RawEntry) : (u.submit e).recalling = u.recalling :=
  (u.only_submit e).recalling

/-! ## `Tables.journal` leaves everything but the writer -/

@[simp] theorem Tables.mode_journal (u : Tables) (k : JKind) (v : Severity) (n d : Byte) (x : Word32) : (u.journal k v n d x).mode = u.mode :=
  (u.only_journal k v n d x).mode
@[simp] theorem Tables.ready_journal (u : Tables) (k : JKind) (v : Severity) (n d : Byte) (x : Word32) : (u.journal k v n d x).ready = u.ready :=
  (u.only_journal k v n d x).ready
@[simp] theorem Tables.key_journal (u : Tables) (k : JKind) (v : Severity) (n d : Byte) (x : Word32) : (u.journal k v n d x).key = u.key :=
  (u.only_journal k v n d x).key
@[simp] theorem Tables.active_journal (u : Tables) (k : JKind) (v : Severity) (n d : Byte) (x : Word32) : (u.journal k v n d x).active = u.active :=
  (u.only_journal k v n d x).active
@[simp] theorem Tables.apply_journal (u : Tables) (k : JKind) (v : Severity) (n d : Byte) (x : Word32) : (u.journal k v n d x).apply = u.apply :=
  (u.only_journal k v n d x).apply
@[simp] theorem Tables.lock_journal (u : Tables) (k : JKind) (v : Severity) (n d : Byte) (x : Word32) : (u.journal k v n d x).lock = u.lock :=
  (u.only_journal k v n d x).lock
@[simp] theorem Tables.clock_journal (u : Tables) (k : JKind) (v : Severity) (n d : Byte) (x : Word32) : (u.journal k v n d x).clock = u.clock :=
  (u.only_journal k v n d x).clock
@[simp] theorem Tables.synced_journal (u : Tables) (k : JKind) (v : Severity) (n d : Byte) (x : Word32) : (u.journal k v n d x).synced = u.synced :=
  (u.only_journal k v n d x).synced
@[simp] theorem Tables.advancing_journal (u : Tables) (k : JKind) (v : Severity) (n d : Byte) (x : Word32) : (u.journal k v n d x).advancing = u.advancing :=
  (u.only_journal k v n d x).advancing
@[simp] theorem Tables.lastConsumed_journal (u : Tables) (k : JKind) (v : Severity) (n d : Byte) (x : Word32) : (u.journal k v n d x).lastConsumed = u.lastConsumed :=
  (u.only_journal k v n d x).lastConsumed
@[simp] theorem Tables.genLow_journal (u : Tables) (k : JKind) (v : Severity) (n d : Byte) (x : Word32) : (u.journal k v n d x).genLow = u.genLow :=
  (u.only_journal k v n d x).genLow
@[simp] theorem Tables.genHigh_journal (u : Tables) (k : JKind) (v : Severity) (n d : Byte) (x : Word32) : (u.journal k v n d x).genHigh = u.genHigh :=
  (u.only_journal k v n d x).genHigh
@[simp] theorem Tables.cabs_journal (u : Tables) (k : JKind) (v : Severity) (n d : Byte) (x : Word32) : (u.journal k v n d x).cabs = u.cabs :=
  (u.only_journal k v n d x).cabs
@[simp] theorem Tables.groups_journal (u : Tables) (k : JKind) (v : Severity) (n d : Byte) (x : Word32) : (u.journal k v n d x).groups = u.groups :=
  (u.only_journal k v n d x).groups
@[simp] theorem Tables.strings_journal (u : Tables) (k : JKind) (v : Severity) (n d : Byte) (x : Word32) : (u.journal k v n d x).strings = u.strings :=
  (u.only_journal k v n d x).strings
@[simp] theorem Tables.visits_journal (u : Tables) (k : JKind) (v : Severity) (n d : Byte) (x : Word32) : (u.journal k v n d x).visits = u.visits :=
  (u.only_journal k v n d x).visits
@[simp] theorem Tables.orders_journal (u : Tables) (k : JKind) (v : Severity) (n d : Byte) (x : Word32) : (u.journal k v n d x).orders = u.orders :=
  (u.only_journal k v n d x).orders
@[simp] theorem Tables.spent_journal (u : Tables) (k : JKind) (v : Severity) (n d : Byte) (x : Word32) : (u.journal k v n d x).spent = u.spent :=
  (u.only_journal k v n d x).spent
@[simp] theorem Tables.recalling_journal (u : Tables) (k : JKind) (v : Severity) (n d : Byte) (x : Word32) : (u.journal k v n d x).recalling = u.recalling :=
  (u.only_journal k v n d x).recalling
@[simp] theorem Tables.cab_journal (u : Tables) (k : JKind) (v : Severity) (n d : Byte) (x : Word32) (y : Cab) : (u.journal k v n d x).cab y = u.cab y :=
  (u.only_journal k v n d x).cab y
@[simp] theorem Tables.grp_journal (u : Tables) (k : JKind) (v : Severity) (n d : Byte) (x : Word32) (y : Grp) : (u.journal k v n d x).grp y = u.grp y :=
  (u.only_journal k v n d x).grp y
@[simp] theorem Tables.str_journal (u : Tables) (k : JKind) (v : Severity) (n d : Byte) (x : Word32) (y : Str) : (u.journal k v n d x).str y = u.str y :=
  (u.only_journal k v n d x).str y
@[simp] theorem Tables.vis_journal (u : Tables) (k : JKind) (v : Severity) (n d : Byte) (x : Word32) (y : Con) : (u.journal k v n d x).vis y = u.vis y :=
  (u.only_journal k v n d x).vis y
@[simp] theorem Tables.ord_journal (u : Tables) (k : JKind) (v : Severity) (n d : Byte) (x : Word32) (y : Slot) : (u.journal k v n d x).ord y = u.ord y :=
  (u.only_journal k v n d x).ord y
@[simp] theorem Tables.cabCfg_journal (u : Tables) (k : JKind) (v : Severity) (n d : Byte) (x : Word32) (y : Cab) : (u.journal k v n d x).cabCfg y = u.cabCfg y :=
  (u.only_journal k v n d x).cabCfg y
@[simp] theorem Tables.present_journal (u : Tables) (k : JKind) (v : Severity) (n d : Byte) (x : Word32) (y : Cab) : (u.journal k v n d x).present y = u.present y :=
  (u.only_journal k v n d x).present y
@[simp] theorem Tables.groupOf_journal (u : Tables) (k : JKind) (v : Severity) (n d : Byte) (x : Word32) (y : Cab) : (u.journal k v n d x).groupOf y = u.groupOf y :=
  (u.only_journal k v n d x).groupOf y
@[simp] theorem Tables.grpCfg_journal (u : Tables) (k : JKind) (v : Severity) (n d : Byte) (x : Word32) (y : Grp) : (u.journal k v n d x).grpCfg y = u.grpCfg y :=
  (u.only_journal k v n d x).grpCfg y
@[simp] theorem Tables.members_journal (u : Tables) (k : JKind) (v : Severity) (n d : Byte) (x : Word32) (y : Grp) : (u.journal k v n d x).members y = u.members y :=
  (u.only_journal k v n d x).members y
@[simp] theorem Tables.owner_journal (u : Tables) (k : JKind) (v : Severity) (n d : Byte) (x : Word32) (y : Str) : (u.journal k v n d x).owner y = u.owner y :=
  (u.only_journal k v n d x).owner y
@[simp] theorem Tables.place_journal (u : Tables) (k : JKind) (v : Severity) (n d : Byte) (x : Word32) (y : Str) : (u.journal k v n d x).place y = u.place y :=
  (u.only_journal k v n d x).place y
@[simp] theorem Tables.limit_journal (u : Tables) (k : JKind) (v : Severity) (n d : Byte) (x : Word32) (f : Block → Nat) : (u.journal k v n d x).limit f = u.limit f :=
  (u.only_journal k v n d x).limit f

/-! ## `Tables.setLatch` leaves everything but the writer -/

@[simp] theorem Tables.mode_setLatch (u : Tables) : (u.setLatch).mode = u.mode :=
  (u.only_setLatch).mode
@[simp] theorem Tables.ready_setLatch (u : Tables) : (u.setLatch).ready = u.ready :=
  (u.only_setLatch).ready
@[simp] theorem Tables.key_setLatch (u : Tables) : (u.setLatch).key = u.key :=
  (u.only_setLatch).key
@[simp] theorem Tables.active_setLatch (u : Tables) : (u.setLatch).active = u.active :=
  (u.only_setLatch).active
@[simp] theorem Tables.apply_setLatch (u : Tables) : (u.setLatch).apply = u.apply :=
  (u.only_setLatch).apply
@[simp] theorem Tables.lock_setLatch (u : Tables) : (u.setLatch).lock = u.lock :=
  (u.only_setLatch).lock
@[simp] theorem Tables.clock_setLatch (u : Tables) : (u.setLatch).clock = u.clock :=
  (u.only_setLatch).clock
@[simp] theorem Tables.synced_setLatch (u : Tables) : (u.setLatch).synced = u.synced :=
  (u.only_setLatch).synced
@[simp] theorem Tables.advancing_setLatch (u : Tables) : (u.setLatch).advancing = u.advancing :=
  (u.only_setLatch).advancing
@[simp] theorem Tables.lastConsumed_setLatch (u : Tables) : (u.setLatch).lastConsumed = u.lastConsumed :=
  (u.only_setLatch).lastConsumed
@[simp] theorem Tables.genLow_setLatch (u : Tables) : (u.setLatch).genLow = u.genLow :=
  (u.only_setLatch).genLow
@[simp] theorem Tables.genHigh_setLatch (u : Tables) : (u.setLatch).genHigh = u.genHigh :=
  (u.only_setLatch).genHigh
@[simp] theorem Tables.cabs_setLatch (u : Tables) : (u.setLatch).cabs = u.cabs :=
  (u.only_setLatch).cabs
@[simp] theorem Tables.groups_setLatch (u : Tables) : (u.setLatch).groups = u.groups :=
  (u.only_setLatch).groups
@[simp] theorem Tables.strings_setLatch (u : Tables) : (u.setLatch).strings = u.strings :=
  (u.only_setLatch).strings
@[simp] theorem Tables.visits_setLatch (u : Tables) : (u.setLatch).visits = u.visits :=
  (u.only_setLatch).visits
@[simp] theorem Tables.orders_setLatch (u : Tables) : (u.setLatch).orders = u.orders :=
  (u.only_setLatch).orders
@[simp] theorem Tables.spent_setLatch (u : Tables) : (u.setLatch).spent = u.spent :=
  (u.only_setLatch).spent
@[simp] theorem Tables.recalling_setLatch (u : Tables) : (u.setLatch).recalling = u.recalling :=
  (u.only_setLatch).recalling

/-! ## `Tables.flushNow` leaves everything but the writer -/

@[simp] theorem Tables.mode_flushNow (u : Tables) : (u.flushNow).mode = u.mode :=
  (u.only_flushNow).mode
@[simp] theorem Tables.ready_flushNow (u : Tables) : (u.flushNow).ready = u.ready :=
  (u.only_flushNow).ready
@[simp] theorem Tables.key_flushNow (u : Tables) : (u.flushNow).key = u.key :=
  (u.only_flushNow).key
@[simp] theorem Tables.active_flushNow (u : Tables) : (u.flushNow).active = u.active :=
  (u.only_flushNow).active
@[simp] theorem Tables.apply_flushNow (u : Tables) : (u.flushNow).apply = u.apply :=
  (u.only_flushNow).apply
@[simp] theorem Tables.lock_flushNow (u : Tables) : (u.flushNow).lock = u.lock :=
  (u.only_flushNow).lock
@[simp] theorem Tables.clock_flushNow (u : Tables) : (u.flushNow).clock = u.clock :=
  (u.only_flushNow).clock
@[simp] theorem Tables.synced_flushNow (u : Tables) : (u.flushNow).synced = u.synced :=
  (u.only_flushNow).synced
@[simp] theorem Tables.advancing_flushNow (u : Tables) : (u.flushNow).advancing = u.advancing :=
  (u.only_flushNow).advancing
@[simp] theorem Tables.lastConsumed_flushNow (u : Tables) : (u.flushNow).lastConsumed = u.lastConsumed :=
  (u.only_flushNow).lastConsumed
@[simp] theorem Tables.genLow_flushNow (u : Tables) : (u.flushNow).genLow = u.genLow :=
  (u.only_flushNow).genLow
@[simp] theorem Tables.genHigh_flushNow (u : Tables) : (u.flushNow).genHigh = u.genHigh :=
  (u.only_flushNow).genHigh
@[simp] theorem Tables.cabs_flushNow (u : Tables) : (u.flushNow).cabs = u.cabs :=
  (u.only_flushNow).cabs
@[simp] theorem Tables.groups_flushNow (u : Tables) : (u.flushNow).groups = u.groups :=
  (u.only_flushNow).groups
@[simp] theorem Tables.strings_flushNow (u : Tables) : (u.flushNow).strings = u.strings :=
  (u.only_flushNow).strings
@[simp] theorem Tables.visits_flushNow (u : Tables) : (u.flushNow).visits = u.visits :=
  (u.only_flushNow).visits
@[simp] theorem Tables.orders_flushNow (u : Tables) : (u.flushNow).orders = u.orders :=
  (u.only_flushNow).orders
@[simp] theorem Tables.spent_flushNow (u : Tables) : (u.flushNow).spent = u.spent :=
  (u.only_flushNow).spent
@[simp] theorem Tables.recalling_flushNow (u : Tables) : (u.flushNow).recalling = u.recalling :=
  (u.only_flushNow).recalling

end Sys2Proof.Machine
end

