-- ==== Sys2Proof/Laws/Keeps.lean ====
section
/-! SUPPORT. What the units' operations leave alone. `Keeps u v`: `v` comes of `u` by operations that touch none of
the part's mode, lines, configuration, clock and recall, and that keep the writer's lists and the spent list sound.
Every operation of the units extends it; `sound` and the field equations of a long composition then follow at once. -/

-- One theorem at a time, for the reason Laws/State.lean gives.
set_option Elab.async false

set_option linter.unusedTactic false
set_option linter.unreachableTactic false

namespace Sys2Proof.Machine

structure Keeps (u v : Tables) : Prop where
  mode : v.mode = u.mode
  ready : v.ready = u.ready
  key : v.key = u.key
  active : v.active = u.active
  applying : v.apply = u.apply
  lock : v.lock = u.lock
  clock : v.clock = u.clock
  synced : v.synced = u.synced
  advancing : v.advancing = u.advancing
  lastConsumed : v.lastConsumed = u.lastConsumed
  genLow : v.genLow = u.genLow
  genHigh : v.genHigh = u.genHigh
  recalling : v.recalling = u.recalling
  sound : u.Sound → v.Sound

theorem Keeps.refl (u : Tables) : Keeps u u :=
  ⟨rfl, rfl, rfl, rfl, rfl, rfl, rfl, rfl, rfl, rfl, rfl, rfl, rfl, id⟩

theorem Keeps.trans {u v w : Tables} (h : Keeps u v) (k : Keeps v w) : Keeps u w where
  mode := k.mode.trans h.mode
  ready := k.ready.trans h.ready
  key := k.key.trans h.key
  active := k.active.trans h.active
  applying := k.applying.trans h.applying
  lock := k.lock.trans h.lock
  clock := k.clock.trans h.clock
  synced := k.synced.trans h.synced
  advancing := k.advancing.trans h.advancing
  lastConsumed := k.lastConsumed.trans h.lastConsumed
  genLow := k.genLow.trans h.genLow
  genHigh := k.genHigh.trans h.genHigh
  recalling := k.recalling.trans h.recalling
  sound := fun s => k.sound (h.sound s)

/-- A change of the writer alone that keeps its lists sound. -/
theorem Keeps.ofOnly {u v w : Tables} (h : Keeps u v) (k : OnlyWriter v w)
    (s : v.writer.Sound → w.writer.Sound) : Keeps u w :=
  h.trans ⟨k.mode, k.ready, k.key, k.active, k.apply, k.lock, k.clock, k.synced, k.advancing, k.lastConsumed, k.genLow,
    k.genHigh, k.recalling, fun x => ⟨s x.1, k.spent ▸ x.2⟩⟩

theorem Keeps.foldl {α : Type} {u : Tables} {f : Tables → α → Tables}
    (hf : ∀ v x, Keeps u v → Keeps u (f v x)) {l : List α} {v : Tables} (h : Keeps u v) :
    Keeps u (l.foldl f v) := by
  induction l generalizing v with
  | nil => exact h
  | cons x l ih => exact ih (hf v x h)

/-! ## Entries, marks, entries of the journal -/

theorem Keeps.setCab {u v : Tables} (h : Keeps u v) (c : Cab) (e : CabEntry) : Keeps u (v.setCab c e) :=
  h.trans ⟨rfl, rfl, rfl, rfl, rfl, rfl, rfl, rfl, rfl, rfl, rfl, rfl, rfl, id⟩

theorem Keeps.setGrp {u v : Tables} (h : Keeps u v) (g : Grp) (e : GroupEntry) : Keeps u (v.setGrp g e) :=
  h.trans ⟨rfl, rfl, rfl, rfl, rfl, rfl, rfl, rfl, rfl, rfl, rfl, rfl, rfl, id⟩

theorem Keeps.setStr {u v : Tables} (h : Keeps u v) (s : Str) (e : StringEntry) : Keeps u (v.setStr s e) :=
  h.trans ⟨rfl, rfl, rfl, rfl, rfl, rfl, rfl, rfl, rfl, rfl, rfl, rfl, rfl, id⟩

theorem Keeps.setTest {u v : Tables} (h : Keeps u v) (s : Str) (t : TestFields) : Keeps u (v.setTest s t) :=
  h.setStr s _

theorem Keeps.setVis {u v : Tables} (h : Keeps u v) (t : Con) (e : Visit) : Keeps u (v.setVis t e) :=
  h.trans ⟨rfl, rfl, rfl, rfl, rfl, rfl, rfl, rfl, rfl, rfl, rfl, rfl, rfl, id⟩

theorem Keeps.setOrd {u v : Tables} (h : Keeps u v) (n : Slot) (e : Order) : Keeps u (v.setOrd n e) :=
  h.trans ⟨rfl, rfl, rfl, rfl, rfl, rfl, rfl, rfl, rfl, rfl, rfl, rfl, rfl, id⟩

theorem Keeps.evalAttn {u v : Tables} (h : Keeps u v) : Keeps u v.evalAttn := h.ofOnly v.only_evalAttn id

theorem Keeps.markUrgent {u v : Tables} (h : Keeps u v) (r : RecId) : Keeps u (v.markUrgent r) :=
  h.ofOnly (v.only_markUrgent r) (v.sound_markUrgent r)

theorem Keeps.markLazy {u v : Tables} (h : Keeps u v) (r : RecId) : Keeps u (v.markLazy r) :=
  h.ofOnly (v.only_markLazy r) (v.sound_markLazy r)

theorem Keeps.markHalf {u v : Tables} (h : Keeps u v) (c : Cab) : Keeps u (v.markHalf c) :=
  h.ofOnly (v.only_markHalf c) (v.sound_markHalf c)

theorem Keeps.markIf {u v : Tables} (h : Keeps u v) (r : RecId) (b l : Bool) : Keeps u (v.markIf r b l) :=
  h.ofOnly (v.only_markIf r b l) (v.sound_markIf r b l)

theorem Keeps.setLost {u v : Tables} (h : Keeps u v) : Keeps u v.setLost := h.ofOnly v.only_setLost v.sound_setLost

theorem Keeps.tryLost {u v : Tables} (h : Keeps u v) : Keeps u v.tryLost := h.ofOnly v.only_tryLost v.sound_tryLost

theorem Keeps.submit {u v : Tables} (h : Keeps u v) (e : RawEntry) : Keeps u (v.submit e) :=
  h.ofOnly (v.only_submit e) (v.sound_submit e)

theorem Keeps.journal {u v : Tables} (h : Keeps u v) (k : JKind) (y : Severity) (n d : Byte) (x : Word32) :
    Keeps u (v.journal k y n d x) :=
  h.ofOnly (v.only_journal k y n d x) (v.sound_journal k y n d x)

theorem Keeps.setLatch {u v : Tables} (h : Keeps u v) : Keeps u v.setLatch :=
  h.ofOnly v.only_setLatch v.sound_setLatch

theorem Keeps.flushNow {u v : Tables} (h : Keeps u v) : Keeps u v.flushNow :=
  h.ofOnly v.only_flushNow v.sound_flushNow


/-! ## Test controller -/

theorem Keeps.changeTest {u v : Tables} (h : Keeps u v) (s : Str) (t : TestFields) : Keeps u (v.changeTest s t) := by
  unfold Tables.changeTest
  try dsimp only
  repeat' first
    | with_reducible assumption | with_reducible apply Keeps.setTest | with_reducible apply Keeps.markIf | split

theorem Keeps.startCmdTimer {u v : Tables} (h : Keeps u v) (c : Cab) : Keeps u (v.startCmdTimer c) := by
  unfold Tables.startCmdTimer
  try dsimp only
  repeat' first
    | with_reducible assumption | with_reducible apply Keeps.setCab | split

theorem Keeps.stopCmdTimer {u v : Tables} (h : Keeps u v) (c : Cab) : Keeps u (v.stopCmdTimer c) := by
  unfold Tables.stopCmdTimer
  try dsimp only
  repeat' first
    | with_reducible assumption | with_reducible apply Keeps.setCab | split

theorem Keeps.clearAwaited {u v : Tables} (h : Keeps u v) (c : Cab) : Keeps u (v.clearAwaited c) := by
  unfold Tables.clearAwaited
  try dsimp only
  repeat' first
    | with_reducible assumption | with_reducible apply Keeps.setCab | split

theorem Keeps.clearAwaitedOf {u v : Tables} (h : Keeps u v) (s : Str) : Keeps u (v.clearAwaitedOf s) := by
  unfold Tables.clearAwaitedOf
  try dsimp only
  repeat' first
    | with_reducible assumption | with_reducible apply Keeps.clearAwaited | split

theorem Keeps.issueAt {u v : Tables} (h : Keeps u v) (c : Cab) (p : Pos) (k : SupCmd) : Keeps u (v.issueAt c p k) := by
  unfold Tables.issueAt
  try dsimp only
  repeat' first
    | with_reducible assumption | with_reducible apply Keeps.startCmdTimer | with_reducible apply Keeps.markHalf
    | with_reducible apply Keeps.setCab | split

theorem Keeps.issueSup {u v : Tables} (h : Keeps u v) (s : Str) (k : SupCmd) : Keeps u (v.issueSup s k) := by
  unfold Tables.issueSup
  try dsimp only
  repeat' first
    | with_reducible assumption | with_reducible apply Keeps.issueAt | split

theorem Keeps.stopTest {u v : Tables} (h : Keeps u v) (s : Str) (k : AbortCause) : Keeps u (v.stopTest s k) := by
  unfold Tables.stopTest
  try dsimp only
  repeat' first
    | with_reducible assumption | with_reducible apply Keeps.changeTest | with_reducible apply Keeps.issueSup | split

theorem Keeps.stopLiveOf {u v : Tables} (h : Keeps u v) (g : Grp) : Keeps u (v.stopLiveOf g) := by
  unfold Tables.stopLiveOf
  try dsimp only
  repeat' first
    | with_reducible assumption | with_reducible apply Keeps.stopTest | split

theorem Keeps.completionReport {u v : Tables} (h : Keeps u v) (c : Cab) : Keeps u (v.completionReport c) := by
  unfold Tables.completionReport
  try dsimp only
  repeat' first
    | with_reducible assumption | with_reducible apply Keeps.stopCmdTimer | split

theorem Keeps.completionReportOf {u v : Tables} (h : Keeps u v) (s : Str) : Keeps u (v.completionReportOf s) := by
  unfold Tables.completionReportOf
  try dsimp only
  repeat' first
    | with_reducible assumption | with_reducible apply Keeps.completionReport | split

theorem Keeps.suspendTest {u v : Tables} (h : Keeps u v) (s : Str) : Keeps u (v.suspendTest s) := by
  unfold Tables.suspendTest
  try dsimp only
  repeat' first
    | with_reducible assumption | with_reducible apply Keeps.journal | with_reducible apply Keeps.changeTest
    | with_reducible apply Keeps.issueSup | split

theorem Keeps.resumeTest {u v : Tables} (h : Keeps u v) (s : Str) : Keeps u (v.resumeTest s) := by
  unfold Tables.resumeTest
  try dsimp only
  repeat' first
    | with_reducible assumption | with_reducible apply Keeps.changeTest | with_reducible apply Keeps.issueSup | split

theorem Keeps.conditionTrue {u v : Tables} (h : Keeps u v) (s : Str) : Keeps u (v.conditionTrue s) := by
  unfold Tables.conditionTrue
  try dsimp only
  repeat' first
    | with_reducible assumption | with_reducible apply Keeps.stopTest | with_reducible apply Keeps.suspendTest | split

theorem Keeps.conditionFalse {u v : Tables} (h : Keeps u v) (s : Str) : Keeps u (v.conditionFalse s) := by
  unfold Tables.conditionFalse
  try dsimp only
  repeat' first
    | with_reducible assumption | with_reducible apply Keeps.resumeTest | split

theorem Keeps.suspendAct {u v : Tables} (h : Keeps u v) (g : Grp) (b : Bool) : Keeps u (v.suspendAct g b) := by
  unfold Tables.suspendAct
  try dsimp only
  repeat' first
    | with_reducible assumption | with_reducible apply Keeps.conditionTrue | with_reducible apply Keeps.conditionFalse
    | split

/-! ## Cabinet tracker -/

theorem Keeps.journalTransition {u v : Tables} (h : Keeps u v) (g : Grp) (o : GroupState) : Keeps u (v.journalTransition g o) := by
  unfold Tables.journalTransition
  try dsimp only
  repeat' first
    | with_reducible assumption | with_reducible apply Keeps.journal | split

theorem Keeps.reevalGroup {u v : Tables} (h : Keeps u v) (g : Grp) : Keeps u (v.reevalGroup g) := by
  unfold Tables.reevalGroup
  try dsimp only
  repeat' first
    | with_reducible assumption | with_reducible apply Keeps.suspendAct | with_reducible apply Keeps.journalTransition
    | with_reducible apply Keeps.markIf | with_reducible apply Keeps.setGrp | split

theorem Keeps.reevalFlag {u v : Tables} (h : Keeps u v) (c : Cab) : Keeps u (v.reevalFlag c) := by
  unfold Tables.reevalFlag
  try dsimp only
  repeat' first
    | with_reducible assumption | with_reducible apply Keeps.markIf | with_reducible apply Keeps.setCab | split

theorem Keeps.reevalCab {u v : Tables} (h : Keeps u v) (c : Cab) : Keeps u (v.reevalCab c) := by
  unfold Tables.reevalCab
  try dsimp only
  repeat' first
    | with_reducible assumption | with_reducible apply Keeps.reevalGroup | with_reducible apply Keeps.reevalFlag
    | split

theorem Keeps.reevalAll {u v : Tables} (h : Keeps u v) : Keeps u (v.reevalAll) := by
  unfold Tables.reevalAll
  try dsimp only
  repeat' first
    | with_reducible assumption | refine Keeps.foldl (fun _ _ _ => ?_) ?_ | with_reducible apply Keeps.reevalGroup
    | with_reducible apply Keeps.reevalFlag | split

theorem Keeps.setCount {u v : Tables} (h : Keeps u v) (c : Cab) : Keeps u (v.setCount c) := by
  unfold Tables.setCount
  try dsimp only
  repeat' first
    | with_reducible assumption | with_reducible apply Keeps.setCab | split

theorem Keeps.recomputeMark {u v : Tables} (h : Keeps u v) (s : Str) : Keeps u (v.recomputeMark s) := by
  unfold Tables.recomputeMark
  try dsimp only
  repeat' first
    | with_reducible assumption | with_reducible apply Keeps.reevalCab | with_reducible apply Keeps.setCount
    | with_reducible apply Keeps.setStr | split

theorem Keeps.machineMoved {u v : Tables} (h : Keeps u v) (c : Cab) : Keeps u (v.machineMoved c) := by
  unfold Tables.machineMoved
  try dsimp only
  repeat' first
    | with_reducible assumption | with_reducible apply Keeps.stopLiveOf | with_reducible apply Keeps.reevalCab | split

/-! ## Test controller, moves that leave a test idle -/

theorem Keeps.setUnderTest {u v : Tables} (h : Keeps u v) (g : Grp) (s : Option Str) : Keeps u (v.setUnderTest g s) := by
  unfold Tables.setUnderTest
  try dsimp only
  repeat' first
    | with_reducible assumption | with_reducible apply Keeps.markIf | with_reducible apply Keeps.setGrp | split

theorem Keeps.setUnderTestOf {u v : Tables} (h : Keeps u v) (s : Str) (o : Option Str) : Keeps u (v.setUnderTestOf s o) := by
  unfold Tables.setUnderTestOf
  try dsimp only
  repeat' first
    | with_reducible assumption | with_reducible apply Keeps.setUnderTest | split

theorem Keeps.stopTestTimer {u v : Tables} (h : Keeps u v) (s : Str) : Keeps u (v.stopTestTimer s) := by
  unfold Tables.stopTestTimer
  try dsimp only
  repeat' first
    | with_reducible assumption | with_reducible apply Keeps.setGrp | split

theorem Keeps.endTest {u v : Tables} (h : Keeps u v) (s : Str) (b : Bool) (k : Word16) : Keeps u (v.endTest s b k) := by
  unfold Tables.endTest
  try dsimp only
  repeat' first
    | with_reducible assumption | with_reducible apply Keeps.setUnderTestOf | with_reducible apply Keeps.journal
    | with_reducible apply Keeps.stopTestTimer | with_reducible apply Keeps.clearAwaitedOf
    | with_reducible apply Keeps.changeTest | split

theorem Keeps.returnIdle {u v : Tables} (h : Keeps u v) (s : Str) (b : Bool) : Keeps u (v.returnIdle s b) := by
  unfold Tables.returnIdle
  try dsimp only
  repeat' first
    | with_reducible assumption | with_reducible apply Keeps.recomputeMark | with_reducible apply Keeps.endTest
    | split

theorem Keeps.reserveTestStart {u v : Tables} (h : Keeps u v) (c : Cab) (s : Str) (o : Option Con) : Keeps u (v.reserveTestStart c s o) := by
  unfold Tables.reserveTestStart
  try dsimp only
  repeat' first
    | with_reducible assumption | with_reducible apply Keeps.recomputeMark | with_reducible apply Keeps.setUnderTest
    | with_reducible apply Keeps.startCmdTimer | with_reducible apply Keeps.setGrp
    | with_reducible apply Keeps.changeTest | split

theorem Keeps.takeTestStart {u v : Tables} (h : Keeps u v) (s : Str) (q : Byte) : Keeps u (v.takeTestStart s q) := by
  unfold Tables.takeTestStart
  try dsimp only
  repeat' first
    | with_reducible assumption | with_reducible apply Keeps.journal | split

theorem Keeps.undoTestStart {u v : Tables} (h : Keeps u v) (s : Str) (t : TestFields) : Keeps u (v.undoTestStart s t) := by
  unfold Tables.undoTestStart
  try dsimp only
  repeat' first
    | with_reducible assumption | with_reducible apply Keeps.recomputeMark | with_reducible apply Keeps.setUnderTestOf
    | with_reducible apply Keeps.clearAwaitedOf | with_reducible apply Keeps.stopTestTimer
    | with_reducible apply Keeps.changeTest | split

theorem Keeps.undoStopLive {u v : Tables} (h : Keeps u v) (c : Cab) (s : Str) (q : Byte) (t : TestFields) (b : Bool) : Keeps u (v.undoStopLive c s q t b) := by
  unfold Tables.undoStopLive
  try dsimp only
  repeat' first
    | with_reducible assumption | with_reducible apply Keeps.startCmdTimer | with_reducible apply Keeps.setCab
    | with_reducible apply Keeps.changeTest | split

theorem Keeps.undoStopAdded {u v : Tables} (h : Keeps u v) (s : Str) (q : Byte) (o : Option Byte) : Keeps u (v.undoStopAdded s q o) := by
  unfold Tables.undoStopAdded
  try dsimp only
  repeat' first
    | with_reducible assumption | with_reducible apply Keeps.changeTest | split

theorem Keeps.stopAcknowledged {u v : Tables} (h : Keeps u v) (c : Cab) (s : Str) : Keeps u (v.stopAcknowledged c s) := by
  unfold Tables.stopAcknowledged
  try dsimp only
  repeat' first
    | with_reducible assumption | with_reducible apply Keeps.completionReport | with_reducible apply Keeps.returnIdle
    | split

theorem Keeps.testAck {u v : Tables} (h : Keeps u v) (c : Cab) (k : FloorCmd) (q : Byte) (r : FloorResult) : Keeps u (v.testAck c k q r) := by
  unfold Tables.testAck
  try dsimp only
  repeat' first
    | with_reducible assumption | with_reducible apply Keeps.returnIdle | with_reducible apply Keeps.changeTest
    | with_reducible apply Keeps.stopAcknowledged | split

theorem Keeps.supAcknowledged {u v : Tables} (h : Keeps u v) (c : Cab) (k : SupCmd) (s : Str) (q : Byte) : Keeps u (v.supAcknowledged c k s q) := by
  unfold Tables.supAcknowledged
  try dsimp only
  repeat' first
    | with_reducible assumption | with_reducible apply Keeps.completionReport | with_reducible apply Keeps.changeTest
    | with_reducible apply Keeps.stopAcknowledged | split

theorem Keeps.supAck {u v : Tables} (h : Keeps u v) (c : Cab) (q : Byte) : Keeps u (v.supAck c q) := by
  unfold Tables.supAck
  try dsimp only
  repeat' first
    | with_reducible assumption | with_reducible apply Keeps.supAcknowledged | with_reducible apply Keeps.clearAwaited
    | split

theorem Keeps.confirmed {u v : Tables} (h : Keeps u v) (s : Str) (t : TestFields) : Keeps u (v.confirmed s t) := by
  unfold Tables.confirmed
  try dsimp only
  repeat' first
    | with_reducible assumption | with_reducible apply Keeps.completionReportOf
    | with_reducible apply Keeps.clearAwaitedOf | with_reducible apply Keeps.changeTest | split

theorem Keeps.testEndedByCabinet {u v : Tables} (h : Keeps u v) (s : Str) : Keeps u (v.testEndedByCabinet s) := by
  unfold Tables.testEndedByCabinet
  try dsimp only
  repeat' first
    | with_reducible assumption | with_reducible apply Keeps.endTest | with_reducible apply Keeps.changeTest | split

theorem Keeps.staleTest {u v : Tables} (h : Keeps u v) (c : Cab) : Keeps u (v.staleTest c) := by
  unfold Tables.staleTest
  try dsimp only
  repeat' first
    | with_reducible assumption | with_reducible apply Keeps.stopTest | split

theorem Keeps.groupTestExpired {u v : Tables} (h : Keeps u v) (g : Grp) : Keeps u (v.groupTestExpired g) := by
  unfold Tables.groupTestExpired
  try dsimp only
  repeat' first
    | with_reducible assumption | with_reducible apply Keeps.stopTest | with_reducible apply Keeps.returnIdle | split

theorem Keeps.commandExpired {u v : Tables} (h : Keeps u v) (c : Cab) : Keeps u (v.commandExpired c) := by
  unfold Tables.commandExpired
  try dsimp only
  repeat' first
    | with_reducible assumption | with_reducible apply Keeps.stopTest | with_reducible apply Keeps.returnIdle | split

theorem Keeps.groupTimerExpired {u v : Tables} (h : Keeps u v) (g : Grp) : Keeps u (v.groupTimerExpired g) := by
  unfold Tables.groupTimerExpired
  try dsimp only
  repeat' first
    | with_reducible assumption | with_reducible apply Keeps.groupTestExpired | with_reducible apply Keeps.setGrp
    | split

/-! ## Interlock -/

theorem Keeps.setMachine {u v : Tables} (h : Keeps u v) (c : Cab) (m : Xfer) (o : Option Con) : Keeps u (v.setMachine c m o) := by
  unfold Tables.setMachine
  try dsimp only
  repeat' first
    | with_reducible assumption | with_reducible apply Keeps.markIf | with_reducible apply Keeps.setCab | split

theorem Keeps.journalLanded {u v : Tables} (h : Keeps u v) (c : Cab) (k : JKind) (y : Severity) (d : Byte) : Keeps u (v.journalLanded c k y d) := by
  unfold Tables.journalLanded
  try dsimp only
  repeat' first
    | with_reducible assumption | with_reducible apply Keeps.journal | split

theorem Keeps.releaseHolder {u v : Tables} (h : Keeps u v) (t : Con) (c : Cab) : Keeps u (v.releaseHolder t c) := by
  unfold Tables.releaseHolder
  try dsimp only
  repeat' first
    | with_reducible assumption | with_reducible apply Keeps.setMachine | split

theorem Keeps.releaseHolders {u v : Tables} (h : Keeps u v) (t : Con) : Keeps u (v.releaseHolders t) := by
  unfold Tables.releaseHolders
  try dsimp only
  repeat' first
    | with_reducible assumption | refine Keeps.foldl (fun _ _ _ => ?_) ?_ | with_reducible apply Keeps.releaseHolder
    | split

theorem Keeps.reserveToBypass {u v : Tables} (h : Keeps u v) (c : Cab) : Keeps u (v.reserveToBypass c) := by
  unfold Tables.reserveToBypass
  try dsimp only
  repeat' first
    | with_reducible assumption | with_reducible apply Keeps.machineMoved | with_reducible apply Keeps.startCmdTimer
    | with_reducible apply Keeps.setMachine | split

theorem Keeps.reserveToOnline {u v : Tables} (h : Keeps u v) (c : Cab) : Keeps u (v.reserveToOnline c) := by
  unfold Tables.reserveToOnline
  try dsimp only
  repeat' first
    | with_reducible assumption | with_reducible apply Keeps.machineMoved | with_reducible apply Keeps.startCmdTimer
    | with_reducible apply Keeps.setMachine | split

theorem Keeps.floorRefused {u v : Tables} (h : Keeps u v) (c : Cab) (q : Byte) (b : Bool) (k : Cause) : Keeps u (v.floorRefused c q b k) := by
  unfold Tables.floorRefused
  try dsimp only
  repeat' first
    | with_reducible assumption | with_reducible apply Keeps.journal | with_reducible apply Keeps.markUrgent
    | with_reducible apply Keeps.setCab | split


theorem Keeps.takeToBypass {u v : Tables} (h : Keeps u v) (c : Cab) (q : Byte) : Keeps u (v.takeToBypass c q) := by
  unfold Tables.takeToBypass
  try dsimp only
  repeat' first
    | with_reducible assumption | with_reducible apply Keeps.journal | split

theorem Keeps.takeCommand {u v : Tables} (h : Keeps u v) (c : Cab) (q : Byte) (k : FloorCmd) : Keeps u (v.takeCommand c q k) := by
  unfold Tables.takeCommand
  try dsimp only
  repeat' first
    | with_reducible assumption | with_reducible apply Keeps.takeToBypass | with_reducible apply Keeps.takeTestStart
    | split

theorem Keeps.takeFloor {u v : Tables} (h : Keeps u v) (c : Cab) (q : Byte) (k : FloorCmd) (b : Bool) : Keeps u (v.takeFloor c q k b) := by
  unfold Tables.takeFloor
  try dsimp only
  repeat' first
    | with_reducible assumption | with_reducible apply Keeps.takeCommand | with_reducible apply Keeps.markUrgent
    | with_reducible apply Keeps.setCab | split

theorem Keeps.undoMachine {u v : Tables} (h : Keeps u v) (c : Cab) (m : Xfer) (o : Option Con) : Keeps u (v.undoMachine c m o) := by
  unfold Tables.undoMachine
  try dsimp only
  repeat' first
    | with_reducible assumption | with_reducible apply Keeps.machineMoved | with_reducible apply Keeps.setMachine
    | split

theorem Keeps.undoFloor {u v : Tables} (h : Keeps u v) (c : Cab) (q : Byte) (x : FloorUndo) : Keeps u (v.undoFloor c q x) := by
  unfold Tables.undoFloor
  try dsimp only
  repeat' first
    | with_reducible assumption | with_reducible apply Keeps.undoMachine | with_reducible apply Keeps.undoTestStart
    | with_reducible apply Keeps.undoStopLive | with_reducible apply Keeps.undoStopAdded
    | with_reducible apply Keeps.startCmdTimer | with_reducible apply Keeps.stopCmdTimer | split

theorem Keeps.stepTo {u v : Tables} {f : Tables → Tables} (hf : ∀ w, Keeps u w → Keeps u (f w)) (h : Keeps u v)
    (c : Cab) (m : Xfer) (o : Option Con) : Keeps u (v.stepTo c m o f) :=
  (hf _ (h.setMachine c m o)).machineMoved c

theorem Keeps.bypassLeft {u v : Tables} (h : Keeps u v) (c : Cab) (d : Byte) : Keeps u (Tables.bypassLeft c d v) :=
  h.journalLanded c _ _ d


theorem Keeps.commandTimerExpired {u v : Tables} (h : Keeps u v) (c : Cab) : Keeps u (v.commandTimerExpired c) := by
  unfold Tables.commandTimerExpired
  try dsimp only
  repeat' first
    | with_reducible assumption | refine Keeps.stepTo (fun _ _ => ?_) ?_ _ _ _
    | with_reducible apply Keeps.journalLanded | with_reducible apply Keeps.journal
    | with_reducible apply Keeps.bypassLeft | unfold id | with_reducible apply Keeps.commandExpired
    | with_reducible apply Keeps.markUrgent | with_reducible apply Keeps.setCab | split

theorem Keeps.machineStep {u v : Tables} (h : Keeps u v) (c : Cab) (m : CabMode) (d : Option FloorCmd) : Keeps u (v.machineStep c m d) := by
  unfold Tables.machineStep
  try dsimp only
  repeat' first
    | with_reducible assumption | refine Keeps.stepTo (fun _ _ => ?_) ?_ _ _ _
    | with_reducible apply Keeps.journalLanded | with_reducible apply Keeps.journal
    | with_reducible apply Keeps.bypassLeft | unfold id | with_reducible apply Keeps.stopCmdTimer | split

theorem Keeps.floorAck {u v : Tables} (h : Keeps u v) (c : Cab) (q : Byte) (r : FloorResult) :
    Keeps u (v.floorAck c q r).1 := by
  unfold Tables.floorAck
  dsimp only
  split
  · exact (h.setCab c _).markUrgent _
  · exact h

theorem Keeps.statusHanded {u v : Tables} (h : Keeps u v) (c : Cab) (r : StatusRec) :
    Keeps u (v.statusHanded c r) := by
  unfold Tables.statusHanded
  have h := h.floorAck c r.floorAck r.result
  dsimp only
  refine Keeps.supAck (Keeps.machineStep ?_ _ _ _) _ _
  split
  · exact h.testAck _ _ _ _
  · exact h

theorem Keeps.takeStatus {u v : Tables} (h : Keeps u v) (c : Cab) (r : StatusRec) : Keeps u (v.takeStatus c r) := by
  unfold Tables.takeStatus
  dsimp only
  refine Keeps.reevalCab (Keeps.statusHanded (Keeps.setCab ?_ _ _) _ _) _
  split
  · exact (h.setCab c _).markIf _ _ _
  · exact ((((h.setCab c _).markIf _ _ _).setCab c _).markUrgent _).journal _ _ _ _ _

theorem Keeps.staleTimerExpired {u v : Tables} (h : Keeps u v) (c : Cab) : Keeps u (v.staleTimerExpired c) := by
  unfold Tables.staleTimerExpired
  exact ((((h.setCab c _).markUrgent _).journal _ _ _ _ _).reevalCab c).staleTest c


/-! ## String ageing unit -/

theorem Keeps.setAge {u v : Tables} (h : Keeps u v) (s : Str) (a : AgeState) (k : AgeCause) : Keeps u (v.setAge s a k) := by
  unfold Tables.setAge
  try dsimp only
  repeat' first
    | with_reducible assumption | with_reducible apply Keeps.journal | with_reducible apply Keeps.setStr | split

theorem Keeps.applyThresholds {u v : Tables} (h : Keeps u v) (s : Str) (k : AgeCause) : Keeps u (v.applyThresholds s k) := by
  unfold Tables.applyThresholds
  try dsimp only
  repeat' first
    | with_reducible assumption | with_reducible apply Keeps.setAge | split

theorem Keeps.applyResult {u v : Tables} (h : Keeps u v) (s : Str) (r : HandedResult) : Keeps u (v.applyResult s r) := by
  unfold Tables.applyResult
  try dsimp only
  repeat' first
    | with_reducible assumption | with_reducible apply Keeps.applyThresholds | with_reducible apply Keeps.setAge
    | with_reducible apply Keeps.setStr | split

theorem Keeps.markString {u v : Tables} (h : Keeps u v) (s : Str) (e : StringEntry) : Keeps u (v.markString s e) := by
  unfold Tables.markString
  try dsimp only
  repeat' first
    | with_reducible assumption | with_reducible apply Keeps.markIf | split

theorem Keeps.unplannedTest {u v : Tables} (h : Keeps u v) (s : Str) (r : MeasRec) : Keeps u (v.unplannedTest s r) := by
  unfold Tables.unplannedTest
  try dsimp only
  repeat' first
    | with_reducible assumption | with_reducible apply Keeps.journal | split

theorem Keeps.takeReplace {u v : Tables} (h : Keeps u v) (s : Str) (k : Word16) : Keeps u (v.takeReplace s k) := by
  unfold Tables.takeReplace
  try dsimp only
  repeat' first
    | with_reducible assumption | with_reducible apply Keeps.markUrgent | with_reducible apply Keeps.recomputeMark
    | with_reducible apply Keeps.setAge | with_reducible apply Keeps.setStr | split

theorem Keeps.takeRetire {u v : Tables} (h : Keeps u v) (s : Str) : Keeps u (v.takeRetire s) := by
  unfold Tables.takeRetire
  try dsimp only
  repeat' first
    | with_reducible assumption | with_reducible apply Keeps.markUrgent | with_reducible apply Keeps.recomputeMark
    | with_reducible apply Keeps.setAge | split

theorem Keeps.completeTest {u v : Tables} (h : Keeps u v) (s : Str) : Keeps u (v.completeTest s).1 := by
  unfold Tables.completeTest
  exact (h.changeTest s _).endTest s _ _

theorem Keeps.testMeasured {u v : Tables} (h : Keeps u v) (s : Str) (m : MeasMode) (x : Word32) :
    Keeps u (v.testMeasured s m x).1 := by
  unfold Tables.testMeasured
  dsimp only
  split
  all_goals first
    | with_reducible exact h.confirmed s _
    | with_reducible exact h.changeTest s _
    | with_reducible exact h.completeTest s
    | with_reducible exact h.testEndedByCabinet s
    | with_reducible exact (h.endTest s _ _).completionReportOf s
    | with_reducible exact h

theorem Keeps.handMeasurement {u v : Tables} (h : Keeps u v) (s : Str) (r : MeasRec) :
    Keeps u (v.handMeasurement s r) := by
  unfold Tables.handMeasurement
  have h := h.testMeasured s r.mode r.chargeOut
  dsimp only
  split
  · exact h.applyResult s _
  · exact h

theorem Keeps.takeMeasurement {u v : Tables} (h : Keeps u v) (s : Str) (r : MeasRec) :
    Keeps u (v.takeMeasurement s r) := by
  unfold Tables.takeMeasurement
  exact (((((h.setStr s _).unplannedTest s r).applyThresholds s _).handMeasurement s r).recomputeMark s).markString s _


/-! ## Visit controller -/

theorem Keeps.changeVisit {u v : Tables} (h : Keeps u v) (t : Con) (x : Visit) : Keeps u (v.changeVisit t x) := by
  unfold Tables.changeVisit
  try dsimp only
  repeat' first
    | with_reducible assumption | with_reducible apply Keeps.markIf | with_reducible apply Keeps.setVis | split

theorem Keeps.changeOrder {u v : Tables} (h : Keeps u v) (n : Slot) (o : Order) : Keeps u (v.changeOrder n o) := by
  unfold Tables.changeOrder
  try dsimp only
  repeat' first
    | with_reducible assumption | with_reducible apply Keeps.markIf | with_reducible apply Keeps.setOrd | split

theorem Keeps.setResult {u v : Tables} (h : Keeps u v) (t : Con) (r : VisitResult) : Keeps u (v.setResult t r) := by
  unfold Tables.setResult
  try dsimp only
  repeat' first
    | with_reducible assumption | with_reducible apply Keeps.changeVisit | split

theorem Keeps.requestTaken {u v : Tables} (h : Keeps u v) (t : Con) (q : Byte) : Keeps u (v.requestTaken t q) := by
  unfold Tables.requestTaken
  try dsimp only
  repeat' first
    | with_reducible assumption | with_reducible apply Keeps.changeVisit | split

theorem Keeps.releaseOrder {u v : Tables} (h : Keeps u v) (t : Con) (o : OrderState) : Keeps u (v.releaseOrder t o) := by
  unfold Tables.releaseOrder
  try dsimp only
  repeat' first
    | with_reducible assumption | with_reducible apply Keeps.changeOrder | split

/-- A number joins a list that holds at most 16. -/
theorem length_spentJoin (l : List Word32) (n : Word32) (h : l.length ≤ spentLimit) :
    (spentJoin l n).length ≤ spentLimit := by
  unfold spentJoin
  split
  · exact h
  · split
    · simp only [List.length_append, List.length_drop, List.length_cons, List.length_nil, spentLimit] at *
      omega
    · simp only [List.length_append, List.length_cons, List.length_nil, spentLimit] at *
      omega

theorem Keeps.joinSpent {u v : Tables} (h : Keeps u v) (n : Word32) : Keeps u (v.joinSpent n) := by
  unfold Tables.joinSpent
  refine Keeps.markIf (h.trans ?_) _ _ _
  exact ⟨rfl, rfl, rfl, rfl, rfl, rfl, rfl, rfl, rfl, rfl, rfl, rfl, rfl, fun s => ⟨s.1, length_spentJoin _ n s.2⟩⟩


theorem Keeps.endVisit {u v : Tables} (h : Keeps u v) (t : Con) (r : EndReason) (o : OrderState) : Keeps u (v.endVisit t r o) := by
  unfold Tables.endVisit
  try dsimp only
  repeat' first
    | with_reducible assumption | with_reducible apply Keeps.journal | with_reducible apply Keeps.releaseHolders
    | with_reducible apply Keeps.markUrgent | with_reducible apply Keeps.joinSpent
    | with_reducible apply Keeps.releaseOrder | with_reducible apply Keeps.changeVisit | split

theorem Keeps.endAllVisits {u v : Tables} (h : Keeps u v) (r : EndReason) : Keeps u (v.endAllVisits r) := by
  unfold Tables.endAllVisits
  try dsimp only
  repeat' first
    | with_reducible assumption | refine Keeps.foldl (fun _ _ _ => ?_) ?_ | with_reducible apply Keeps.endVisit
    | split

theorem Keeps.takeOffer {u v : Tables} (h : Keeps u v) (n : Slot) (x : OrderTerms) : Keeps u (v.takeOffer n x) := by
  unfold Tables.takeOffer
  try dsimp only
  repeat' first
    | with_reducible assumption | with_reducible apply Keeps.changeOrder | split

theorem Keeps.takeWithdraw {u v : Tables} (h : Keeps u v) (n : Slot) : Keeps u (v.takeWithdraw n) := by
  unfold Tables.takeWithdraw
  try dsimp only
  repeat' first
    | with_reducible assumption | with_reducible apply Keeps.endVisit | with_reducible apply Keeps.changeOrder | split

theorem Keeps.takeClear {u v : Tables} (h : Keeps u v) (n : Slot) : Keeps u (v.takeClear n) := by
  unfold Tables.takeClear
  try dsimp only
  repeat' first
    | with_reducible assumption | with_reducible apply Keeps.changeOrder | split

theorem Keeps.reserveOpen {u v : Tables} (h : Keeps u v) (t : Con) (n : Slot) (x : Word32) : Keeps u (v.reserveOpen t n x) := by
  unfold Tables.reserveOpen
  try dsimp only
  repeat' first
    | with_reducible assumption | with_reducible apply Keeps.changeOrder | with_reducible apply Keeps.changeVisit
    | split

theorem Keeps.takeOpen {u v : Tables} (h : Keeps u v) (t : Con) (q : Byte) : Keeps u (v.takeOpen t q) := by
  unfold Tables.takeOpen
  try dsimp only
  repeat' first
    | with_reducible assumption | with_reducible apply Keeps.journal | with_reducible apply Keeps.requestTaken | split

theorem Keeps.undoOpen {u v : Tables} (h : Keeps u v) (t : Con) (n : Slot) (x : Visit) : Keeps u (v.undoOpen t n x) := by
  unfold Tables.undoOpen
  try dsimp only
  repeat' first
    | with_reducible assumption | with_reducible apply Keeps.changeOrder | with_reducible apply Keeps.changeVisit
    | split

theorem Keeps.takeClose {u v : Tables} (h : Keeps u v) (t : Con) (q : Byte) : Keeps u (v.takeClose t q) := by
  unfold Tables.takeClose
  try dsimp only
  repeat' first
    | with_reducible assumption | with_reducible apply Keeps.endVisit | with_reducible apply Keeps.requestTaken
    | split

theorem Keeps.activity {u v : Tables} (h : Keeps u v) (t : Con) : Keeps u (v.activity t) := by
  unfold Tables.activity
  try dsimp only
  repeat' first
    | with_reducible assumption | with_reducible apply Keeps.changeVisit | split

theorem Keeps.activityNotice {u v : Tables} (h : Keeps u v) (x : Byte) : Keeps u (v.activityNotice x) := by
  unfold Tables.activityNotice
  try dsimp only
  repeat' first
    | with_reducible assumption | with_reducible apply Keeps.activity | split

theorem Keeps.idleWarnExpired {u v : Tables} (h : Keeps u v) (t : Con) : Keeps u (v.idleWarnExpired t) := by
  unfold Tables.idleWarnExpired
  try dsimp only
  repeat' first
    | with_reducible assumption | with_reducible apply Keeps.journal | with_reducible apply Keeps.changeVisit
    | with_reducible apply Keeps.setVis | split

theorem Keeps.idleEndExpired {u v : Tables} (h : Keeps u v) (t : Con) : Keeps u (v.idleEndExpired t) := by
  unfold Tables.idleEndExpired
  try dsimp only
  repeat' first
    | with_reducible assumption | with_reducible apply Keeps.endVisit | with_reducible apply Keeps.setVis | split

theorem Keeps.durationExpired {u v : Tables} (h : Keeps u v) (t : Con) : Keeps u (v.durationExpired t) := by
  unfold Tables.durationExpired
  try dsimp only
  repeat' first
    | with_reducible assumption | with_reducible apply Keeps.endVisit | with_reducible apply Keeps.setVis | split

/-! ## Decisions of an access (`Judged` and `Decided` pairs) -/

theorem Keeps.judgeList {u v : Tables} (h : Keeps u v) (l : List (Bool × Denial)) (k : Take) :
    Keeps u (v.judgeList l k).1 := by
  unfold Tables.judgeList
  split <;> exact h

theorem Keeps.judgeStatus {u v : Tables} (h : Keeps u v) (c : Cab) (d : List Byte) : Keeps u (v.judgeStatus c d).1 := by
  unfold Tables.judgeStatus
  split
  · exact h
  · split <;> exact h

theorem Keeps.refuseFloor {u v : Tables} (h : Keeps u v) (c : Cab) (q : Byte) (b : Bool) (d : Denial) :
    Keeps u (v.refuseFloor c q b d).1 := by
  unfold Tables.refuseFloor
  split
  · exact h.floorRefused c q b _
  · exact h

theorem Keeps.reserveTestStop {u v : Tables} (h : Keeps u v) (c : Cab) (s : Str) (q : Byte) :
    Keeps u (v.reserveTestStop c s q).1 := by
  unfold Tables.reserveTestStop
  dsimp only
  split
  · exact ((h.changeTest s _).clearAwaited c).startCmdTimer c
  · split
    · exact (h.changeTest s _).startCmdTimer c
    · exact h.startCmdTimer c

theorem Keeps.judgeFloor {u v : Tables} (h : Keeps u v) (c : Cab) (d : List Byte) (o : Option Con) :
    Keeps u (v.judgeFloor c d o).1 := by
  unfold Tables.judgeFloor
  dsimp only
  split
  · exact h
  · split
    · exact h
    · split
      · unfold Tables.judgeToBypass
        split
        · exact h.refuseFloor c _ _ _
        · exact h.reserveToBypass c
      · unfold Tables.judgeToOnline
        split
        · exact h.refuseFloor c _ _ _
        · exact h.reserveToOnline c
      · unfold Tables.judgeStart
        split
        · exact h.refuseFloor c _ _ _
        · exact h.reserveTestStart c _ _
      · unfold Tables.judgeStop
        split
        · exact h.refuseFloor c _ _ _
        · exact h.reserveTestStop c _ _

theorem Keeps.judgeMeasurement {u v : Tables} (h : Keeps u v) (s : Str) (d : List Byte) :
    Keeps u (v.judgeMeasurement s d).1 := by
  unfold Tables.judgeMeasurement
  split
  · exact h
  · split
    · exact h
    · exact h.judgeList _ _

theorem Keeps.judgeAction {u v : Tables} (h : Keeps u v) (t : Con) (d : List Byte) : Keeps u (v.judgeAction t d).1 := by
  unfold Tables.judgeAction
  dsimp only
  split
  · split
    · exact h
    · split
      · exact h
      · exact h.reserveOpen t _ _
  · exact h.judgeList _ _
  · split
    · split <;> exact h.judgeList _ _
    · exact h

theorem Keeps.judgeVisit {u v : Tables} (h : Keeps u v) (t : Con) (d : List Byte) : Keeps u (v.judgeVisit t d).1 := by
  unfold Tables.judgeVisit
  have hj : Keeps u (if ¬ (1 ≤ u8 d 1 ∧ u8 d 1 ≤ 4) then v.refuse (.shape, none)
      else if !seqPasses (v.vis t).lastReq (byteAt d 0) then v.refuse (.shape, none)
      else v.judgeAction t d).1 := by
    split
    · exact h
    · split
      · exact h
      · exact h.judgeAction t d
  dsimp only
  split
  · next heq => rw [heq] at hj; exact hj.setResult t _
  · next heq => rw [heq] at hj; exact hj

theorem Keeps.judgeOrder {u v : Tables} (h : Keeps u v) (n : Slot) (d : List Byte) : Keeps u (v.judgeOrder n d).1 := by
  unfold Tables.judgeOrder
  dsimp only
  split
  · exact h
  · split <;> exact h.judgeList _ _

theorem Keeps.judgeCtrl {u v : Tables} (h : Keeps u v) (f : CtrlField) (d : List Byte) :
    Keeps u (v.judgeCtrl f d).1 := by
  unfold Tables.judgeCtrl
  split
  · split <;> exact h
  · exact h
  · split <;> exact h
  · split <;> exact h

theorem Keeps.judgeTarget {u v : Tables} (h : Keeps u v) (a : Access) (t : Target) : Keeps u (v.judgeTarget a t).1 := by
  unfold Tables.judgeTarget
  split
  · exact h
  · exact h.judgeStatus _ _
  · exact h.judgeFloor _ _ _
  · exact h
  · exact h.judgeMeasurement _ _
  · exact h.judgeVisit _ _
  · exact h.judgeOrder _ _
  · exact h.judgeCtrl _ _

theorem Keeps.decideTypedWrite {u v : Tables} (h : Keeps u v) (a : Access) (z : Zone) (b : Nat) :
    Keeps u (v.decideTypedWrite a z b).1 := by
  unfold Tables.decideTypedWrite
  split
  · exact h
  · split
    · exact h
    · next t _ =>
      split
      · exact h
      · have hj := h.judgeTarget a t
        split
        · next heq => rw [heq] at hj; exact hj
        · next heq => rw [heq] at hj; exact hj

/-- The decision of an access changes only what the units' operations change. -/
theorem Keeps.decideAccess {u v : Tables} (h : Keeps u v) (a : Access) : Keeps u (v.decideAccess a).1 := by
  unfold Tables.decideAccess
  split
  · exact h
  · split
    · exact h
    · split
      · exact h
      · exact h.decideTypedWrite _ _ _


end Sys2Proof.Machine
end

