-- ==== Sys2Proof/Laws/Calm.lean ====
section
/-! SUPPORT. What the cabinet tracker's and the test controller's moves leave alone. `Calm u v`: `v` comes of `u` by
such moves; the machines, holders, reports and floor sequences of the cabinets, the ageing of the strings, the visits,
the work orders and the spent list are as they were. -/

-- One theorem at a time, for the reason Laws/State.lean gives.
set_option Elab.async false

set_option linter.unusedTactic false
set_option linter.unreachableTactic false

namespace Sys2Proof.Machine

/-- What no tracker and no test move touches in a cabinet's entry. -/
def CabEntry.face (e : CabEntry) :=
  (e.fresh, e.staleTimer, e.report, e.load, e.machine, e.holder, e.lastSeq, e.lastCmd, e.outstanding, e.refusal,
    e.refusalTime)

/-- What no tracker and no test move touches in a string's entry. -/
def StringEntry.face (e : StringEntry) :=
  (e.rated, e.install, e.discharged, e.thermal, e.remainder, e.deepCount, e.episode, e.lastCapacity, e.lastSeq,
    e.lastMode, e.age)

structure Calm (u v : Tables) : Prop where
  cab : ∀ c, (v.cab c).face = (u.cab c).face
  str : ∀ s, (v.str s).face = (u.str s).face
  visits : v.visits = u.visits
  orders : v.orders = u.orders
  spent : v.spent = u.spent

theorem Calm.refl (u : Tables) : Calm u u := ⟨fun _ => rfl, fun _ => rfl, rfl, rfl, rfl⟩

theorem Calm.trans {u v w : Tables} (h : Calm u v) (k : Calm v w) : Calm u w :=
  ⟨fun c => (k.cab c).trans (h.cab c), fun s => (k.str s).trans (h.str s), k.visits.trans h.visits,
    k.orders.trans h.orders, k.spent.trans h.spent⟩

theorem Calm.machine {u v : Tables} (h : Calm u v) (c : Cab) : (v.cab c).machine = (u.cab c).machine :=
  congrArg (·.2.2.2.2.1) (h.cab c)

theorem Calm.holder {u v : Tables} (h : Calm u v) (c : Cab) : (v.cab c).holder = (u.cab c).holder :=
  congrArg (·.2.2.2.2.2.1) (h.cab c)

theorem Calm.fresh {u v : Tables} (h : Calm u v) (c : Cab) : (v.cab c).fresh = (u.cab c).fresh :=
  congrArg (·.1) (h.cab c)

theorem Calm.staleTimer {u v : Tables} (h : Calm u v) (c : Cab) : (v.cab c).staleTimer = (u.cab c).staleTimer :=
  congrArg (·.2.1) (h.cab c)

theorem Calm.report {u v : Tables} (h : Calm u v) (c : Cab) : (v.cab c).report = (u.cab c).report :=
  congrArg (·.2.2.1) (h.cab c)

theorem Calm.load {u v : Tables} (h : Calm u v) (c : Cab) : (v.cab c).load = (u.cab c).load :=
  congrArg (·.2.2.2.1) (h.cab c)

theorem Calm.lastSeq {u v : Tables} (h : Calm u v) (c : Cab) : (v.cab c).lastSeq = (u.cab c).lastSeq :=
  congrArg (·.2.2.2.2.2.2.1) (h.cab c)

theorem Calm.outstanding {u v : Tables} (h : Calm u v) (c : Cab) : (v.cab c).outstanding = (u.cab c).outstanding :=
  congrArg (·.2.2.2.2.2.2.2.2.1) (h.cab c)

theorem Calm.age {u v : Tables} (h : Calm u v) (s : Str) : (v.str s).age = (u.str s).age :=
  congrArg (·.2.2.2.2.2.2.2.2.2.2) (h.str s)

theorem Calm.vis {u v : Tables} (h : Calm u v) (t : Con) : v.vis t = u.vis t := by
  simp [Tables.vis, h.visits]

theorem Calm.ord {u v : Tables} (h : Calm u v) (n : Slot) : v.ord n = u.ord n := by
  simp [Tables.ord, h.orders]

theorem Calm.foldl {α : Type} {u : Tables} {f : Tables → α → Tables}
    (hf : ∀ v x, Calm u v → Calm u (f v x)) {l : List α} {v : Tables} (h : Calm u v) : Calm u (l.foldl f v) := by
  induction l generalizing v with
  | nil => exact h
  | cons x l ih => exact ih (hf v x h)

theorem Calm.ofOnly {u v w : Tables} (h : Calm u v) (k : OnlyWriter v w) : Calm u w :=
  h.trans ⟨fun c => by rw [k.cab], fun s => by rw [k.str], k.visits, k.orders, k.spent⟩

theorem Calm.setCab {u v : Tables} (h : Calm u v) (c : Cab) (e : CabEntry) (he : e.face = (v.cab c).face) :
    Calm u (v.setCab c e) := by
  refine h.trans ⟨fun d => ?_, fun _ => rfl, rfl, rfl, rfl⟩
  rw [Tables.cab_setCab]
  split
  · next hd => rw [he, hd]
  · rfl

theorem Calm.setStr {u v : Tables} (h : Calm u v) (s : Str) (e : StringEntry) (he : e.face = (v.str s).face) :
    Calm u (v.setStr s e) := by
  refine h.trans ⟨fun _ => rfl, fun d => ?_, rfl, rfl, rfl⟩
  rw [Tables.str_setStr]
  split
  · next hd => rw [he, hd]
  · rfl

theorem Calm.setTest {u v : Tables} (h : Calm u v) (s : Str) (t : TestFields) : Calm u (v.setTest s t) :=
  h.setStr s _ rfl

theorem Calm.setGrp {u v : Tables} (h : Calm u v) (g : Grp) (e : GroupEntry) : Calm u (v.setGrp g e) :=
  h.trans ⟨fun _ => rfl, fun _ => rfl, rfl, rfl, rfl⟩

theorem Calm.markUrgent {u v : Tables} (h : Calm u v) (r : RecId) : Calm u (v.markUrgent r) :=
  h.ofOnly (v.only_markUrgent r)

theorem Calm.markHalf {u v : Tables} (h : Calm u v) (c : Cab) : Calm u (v.markHalf c) := h.ofOnly (v.only_markHalf c)

theorem Calm.markIf {u v : Tables} (h : Calm u v) (r : RecId) (b l : Bool) : Calm u (v.markIf r b l) :=
  h.ofOnly (v.only_markIf r b l)

theorem Calm.journal {u v : Tables} (h : Calm u v) (k : JKind) (y : Severity) (n d : Byte) (x : Word32) :
    Calm u (v.journal k y n d x) := h.ofOnly (v.only_journal k y n d x)

/-! ## Test controller -/

theorem Calm.changeTest {u v : Tables} (h : Calm u v) (s : Str) (t : TestFields) : Calm u (v.changeTest s t) := by
  unfold Tables.changeTest
  try dsimp only
  repeat' first
    | with_reducible assumption | with_reducible apply Calm.setTest | with_reducible apply Calm.markIf | split

theorem Calm.startCmdTimer {u v : Tables} (h : Calm u v) (c : Cab) : Calm u (v.startCmdTimer c) := by
  unfold Tables.startCmdTimer
  try dsimp only
  repeat' first
    | with_reducible assumption | refine Calm.setCab ?_ _ _ rfl | split

theorem Calm.stopCmdTimer {u v : Tables} (h : Calm u v) (c : Cab) : Calm u (v.stopCmdTimer c) := by
  unfold Tables.stopCmdTimer
  try dsimp only
  repeat' first
    | with_reducible assumption | refine Calm.setCab ?_ _ _ rfl | split

theorem Calm.clearAwaited {u v : Tables} (h : Calm u v) (c : Cab) : Calm u (v.clearAwaited c) := by
  unfold Tables.clearAwaited
  try dsimp only
  repeat' first
    | with_reducible assumption | refine Calm.setCab ?_ _ _ rfl | split

theorem Calm.clearAwaitedOf {u v : Tables} (h : Calm u v) (s : Str) : Calm u (v.clearAwaitedOf s) := by
  unfold Tables.clearAwaitedOf
  try dsimp only
  repeat' first
    | with_reducible assumption | with_reducible apply Calm.clearAwaited | split

theorem Calm.issueAt {u v : Tables} (h : Calm u v) (c : Cab) (p : Pos) (k : SupCmd) : Calm u (v.issueAt c p k) := by
  unfold Tables.issueAt
  try dsimp only
  repeat' first
    | with_reducible assumption | with_reducible apply Calm.startCmdTimer | with_reducible apply Calm.markHalf
    | refine Calm.setCab ?_ _ _ rfl | split

theorem Calm.issueSup {u v : Tables} (h : Calm u v) (s : Str) (k : SupCmd) : Calm u (v.issueSup s k) := by
  unfold Tables.issueSup
  try dsimp only
  repeat' first
    | with_reducible assumption | with_reducible apply Calm.issueAt | split

theorem Calm.stopTest {u v : Tables} (h : Calm u v) (s : Str) (k : AbortCause) : Calm u (v.stopTest s k) := by
  unfold Tables.stopTest
  try dsimp only
  repeat' first
    | with_reducible assumption | with_reducible apply Calm.changeTest | with_reducible apply Calm.issueSup | split

theorem Calm.stopLiveOf {u v : Tables} (h : Calm u v) (g : Grp) : Calm u (v.stopLiveOf g) := by
  unfold Tables.stopLiveOf
  try dsimp only
  repeat' first
    | with_reducible assumption | with_reducible apply Calm.stopTest | split

theorem Calm.completionReport {u v : Tables} (h : Calm u v) (c : Cab) : Calm u (v.completionReport c) := by
  unfold Tables.completionReport
  try dsimp only
  repeat' first
    | with_reducible assumption | with_reducible apply Calm.stopCmdTimer | split

theorem Calm.completionReportOf {u v : Tables} (h : Calm u v) (s : Str) : Calm u (v.completionReportOf s) := by
  unfold Tables.completionReportOf
  try dsimp only
  repeat' first
    | with_reducible assumption | with_reducible apply Calm.completionReport | split

theorem Calm.suspendTest {u v : Tables} (h : Calm u v) (s : Str) : Calm u (v.suspendTest s) := by
  unfold Tables.suspendTest
  try dsimp only
  repeat' first
    | with_reducible assumption | with_reducible apply Calm.journal | with_reducible apply Calm.changeTest
    | with_reducible apply Calm.issueSup | split

theorem Calm.resumeTest {u v : Tables} (h : Calm u v) (s : Str) : Calm u (v.resumeTest s) := by
  unfold Tables.resumeTest
  try dsimp only
  repeat' first
    | with_reducible assumption | with_reducible apply Calm.changeTest | with_reducible apply Calm.issueSup | split

theorem Calm.conditionTrue {u v : Tables} (h : Calm u v) (s : Str) : Calm u (v.conditionTrue s) := by
  unfold Tables.conditionTrue
  try dsimp only
  repeat' first
    | with_reducible assumption | with_reducible apply Calm.stopTest | with_reducible apply Calm.suspendTest | split

theorem Calm.conditionFalse {u v : Tables} (h : Calm u v) (s : Str) : Calm u (v.conditionFalse s) := by
  unfold Tables.conditionFalse
  try dsimp only
  repeat' first
    | with_reducible assumption | with_reducible apply Calm.resumeTest | split

theorem Calm.suspendAct {u v : Tables} (h : Calm u v) (g : Grp) (b : Bool) : Calm u (v.suspendAct g b) := by
  unfold Tables.suspendAct
  try dsimp only
  repeat' first
    | with_reducible assumption | with_reducible apply Calm.conditionTrue | with_reducible apply Calm.conditionFalse
    | split

/-! ## Cabinet tracker -/

theorem Calm.journalTransition {u v : Tables} (h : Calm u v) (g : Grp) (o : GroupState) : Calm u (v.journalTransition g o) := by
  unfold Tables.journalTransition
  try dsimp only
  repeat' first
    | with_reducible assumption | with_reducible apply Calm.journal | split

theorem Calm.reevalGroup {u v : Tables} (h : Calm u v) (g : Grp) : Calm u (v.reevalGroup g) := by
  unfold Tables.reevalGroup
  try dsimp only
  repeat' first
    | with_reducible assumption | with_reducible apply Calm.suspendAct | with_reducible apply Calm.journalTransition
    | with_reducible apply Calm.markIf | with_reducible apply Calm.setGrp | split

theorem Calm.reevalFlag {u v : Tables} (h : Calm u v) (c : Cab) : Calm u (v.reevalFlag c) := by
  unfold Tables.reevalFlag
  try dsimp only
  repeat' first
    | with_reducible assumption | with_reducible apply Calm.markIf | refine Calm.setCab ?_ _ _ rfl | split

theorem Calm.reevalCab {u v : Tables} (h : Calm u v) (c : Cab) : Calm u (v.reevalCab c) := by
  unfold Tables.reevalCab
  try dsimp only
  repeat' first
    | with_reducible assumption | with_reducible apply Calm.reevalGroup | with_reducible apply Calm.reevalFlag | split

theorem Calm.reevalAll {u v : Tables} (h : Calm u v) : Calm u (v.reevalAll) := by
  unfold Tables.reevalAll
  try dsimp only
  repeat' first
    | with_reducible assumption | refine Calm.foldl (fun _ _ _ => ?_) ?_ | with_reducible apply Calm.reevalGroup
    | with_reducible apply Calm.reevalFlag | split

theorem Calm.setCount {u v : Tables} (h : Calm u v) (c : Cab) : Calm u (v.setCount c) := by
  unfold Tables.setCount
  try dsimp only
  repeat' first
    | with_reducible assumption | refine Calm.setCab ?_ _ _ rfl | split

theorem Calm.recomputeMark {u v : Tables} (h : Calm u v) (s : Str) : Calm u (v.recomputeMark s) := by
  unfold Tables.recomputeMark
  try dsimp only
  repeat' first
    | with_reducible assumption | with_reducible apply Calm.reevalCab | with_reducible apply Calm.setCount
    | refine Calm.setStr ?_ _ _ rfl | split

theorem Calm.machineMoved {u v : Tables} (h : Calm u v) (c : Cab) : Calm u (v.machineMoved c) := by
  unfold Tables.machineMoved
  try dsimp only
  repeat' first
    | with_reducible assumption | with_reducible apply Calm.stopLiveOf | with_reducible apply Calm.reevalCab | split

/-! ## Test controller, moves that leave a test idle -/

theorem Calm.setUnderTest {u v : Tables} (h : Calm u v) (g : Grp) (s : Option Str) : Calm u (v.setUnderTest g s) := by
  unfold Tables.setUnderTest
  try dsimp only
  repeat' first
    | with_reducible assumption | with_reducible apply Calm.markIf | with_reducible apply Calm.setGrp | split

theorem Calm.setUnderTestOf {u v : Tables} (h : Calm u v) (s : Str) (o : Option Str) : Calm u (v.setUnderTestOf s o) := by
  unfold Tables.setUnderTestOf
  try dsimp only
  repeat' first
    | with_reducible assumption | with_reducible apply Calm.setUnderTest | split

theorem Calm.stopTestTimer {u v : Tables} (h : Calm u v) (s : Str) : Calm u (v.stopTestTimer s) := by
  unfold Tables.stopTestTimer
  try dsimp only
  repeat' first
    | with_reducible assumption | with_reducible apply Calm.setGrp | split

theorem Calm.endTest {u v : Tables} (h : Calm u v) (s : Str) (b : Bool) (k : Word16) : Calm u (v.endTest s b k) := by
  unfold Tables.endTest
  try dsimp only
  repeat' first
    | with_reducible assumption | with_reducible apply Calm.setUnderTestOf | with_reducible apply Calm.journal
    | with_reducible apply Calm.stopTestTimer | with_reducible apply Calm.clearAwaitedOf
    | with_reducible apply Calm.changeTest | split

theorem Calm.returnIdle {u v : Tables} (h : Calm u v) (s : Str) (b : Bool) : Calm u (v.returnIdle s b) := by
  unfold Tables.returnIdle
  try dsimp only
  repeat' first
    | with_reducible assumption | with_reducible apply Calm.recomputeMark | with_reducible apply Calm.endTest | split

theorem Calm.reserveTestStart {u v : Tables} (h : Calm u v) (c : Cab) (s : Str) (o : Option Con) : Calm u (v.reserveTestStart c s o) := by
  unfold Tables.reserveTestStart
  try dsimp only
  repeat' first
    | with_reducible assumption | with_reducible apply Calm.recomputeMark | with_reducible apply Calm.setUnderTest
    | with_reducible apply Calm.startCmdTimer | with_reducible apply Calm.setGrp
    | with_reducible apply Calm.changeTest | split

theorem Calm.takeTestStart {u v : Tables} (h : Calm u v) (s : Str) (q : Byte) : Calm u (v.takeTestStart s q) := by
  unfold Tables.takeTestStart
  try dsimp only
  repeat' first
    | with_reducible assumption | with_reducible apply Calm.journal | split

theorem Calm.undoTestStart {u v : Tables} (h : Calm u v) (s : Str) (t : TestFields) : Calm u (v.undoTestStart s t) := by
  unfold Tables.undoTestStart
  try dsimp only
  repeat' first
    | with_reducible assumption | with_reducible apply Calm.recomputeMark | with_reducible apply Calm.setUnderTestOf
    | with_reducible apply Calm.clearAwaitedOf | with_reducible apply Calm.stopTestTimer
    | with_reducible apply Calm.changeTest | split

theorem Calm.undoStopLive {u v : Tables} (h : Calm u v) (c : Cab) (s : Str) (q : Byte) (t : TestFields) (b : Bool) : Calm u (v.undoStopLive c s q t b) := by
  unfold Tables.undoStopLive
  try dsimp only
  repeat' first
    | with_reducible assumption | with_reducible apply Calm.startCmdTimer | refine Calm.setCab ?_ _ _ rfl
    | with_reducible apply Calm.changeTest | split

theorem Calm.undoStopAdded {u v : Tables} (h : Calm u v) (s : Str) (q : Byte) (o : Option Byte) : Calm u (v.undoStopAdded s q o) := by
  unfold Tables.undoStopAdded
  try dsimp only
  repeat' first
    | with_reducible assumption | with_reducible apply Calm.changeTest | split

theorem Calm.stopAcknowledged {u v : Tables} (h : Calm u v) (c : Cab) (s : Str) : Calm u (v.stopAcknowledged c s) := by
  unfold Tables.stopAcknowledged
  try dsimp only
  repeat' first
    | with_reducible assumption | with_reducible apply Calm.completionReport | with_reducible apply Calm.returnIdle
    | split

theorem Calm.testAck {u v : Tables} (h : Calm u v) (c : Cab) (k : FloorCmd) (q : Byte) (r : FloorResult) : Calm u (v.testAck c k q r) := by
  unfold Tables.testAck
  try dsimp only
  repeat' first
    | with_reducible assumption | with_reducible apply Calm.returnIdle | with_reducible apply Calm.changeTest
    | with_reducible apply Calm.stopAcknowledged | split

theorem Calm.supAcknowledged {u v : Tables} (h : Calm u v) (c : Cab) (k : SupCmd) (s : Str) (q : Byte) : Calm u (v.supAcknowledged c k s q) := by
  unfold Tables.supAcknowledged
  try dsimp only
  repeat' first
    | with_reducible assumption | with_reducible apply Calm.completionReport | with_reducible apply Calm.changeTest
    | with_reducible apply Calm.stopAcknowledged | split

theorem Calm.supAck {u v : Tables} (h : Calm u v) (c : Cab) (q : Byte) : Calm u (v.supAck c q) := by
  unfold Tables.supAck
  try dsimp only
  repeat' first
    | with_reducible assumption | with_reducible apply Calm.supAcknowledged | with_reducible apply Calm.clearAwaited
    | split

theorem Calm.confirmed {u v : Tables} (h : Calm u v) (s : Str) (t : TestFields) : Calm u (v.confirmed s t) := by
  unfold Tables.confirmed
  try dsimp only
  repeat' first
    | with_reducible assumption | with_reducible apply Calm.completionReportOf
    | with_reducible apply Calm.clearAwaitedOf | with_reducible apply Calm.changeTest | split

theorem Calm.testEndedByCabinet {u v : Tables} (h : Calm u v) (s : Str) : Calm u (v.testEndedByCabinet s) := by
  unfold Tables.testEndedByCabinet
  try dsimp only
  repeat' first
    | with_reducible assumption | with_reducible apply Calm.endTest | with_reducible apply Calm.changeTest | split

theorem Calm.staleTest {u v : Tables} (h : Calm u v) (c : Cab) : Calm u (v.staleTest c) := by
  unfold Tables.staleTest
  try dsimp only
  repeat' first
    | with_reducible assumption | with_reducible apply Calm.stopTest | split

theorem Calm.groupTestExpired {u v : Tables} (h : Calm u v) (g : Grp) : Calm u (v.groupTestExpired g) := by
  unfold Tables.groupTestExpired
  try dsimp only
  repeat' first
    | with_reducible assumption | with_reducible apply Calm.stopTest | with_reducible apply Calm.returnIdle | split

theorem Calm.commandExpired {u v : Tables} (h : Calm u v) (c : Cab) : Calm u (v.commandExpired c) := by
  unfold Tables.commandExpired
  try dsimp only
  repeat' first
    | with_reducible assumption | with_reducible apply Calm.stopTest | with_reducible apply Calm.returnIdle | split

theorem Calm.groupTimerExpired {u v : Tables} (h : Calm u v) (g : Grp) : Calm u (v.groupTimerExpired g) := by
  unfold Tables.groupTimerExpired
  try dsimp only
  repeat' first
    | with_reducible assumption | with_reducible apply Calm.groupTestExpired | with_reducible apply Calm.setGrp
    | split

end Sys2Proof.Machine
end

