-- ==== Sys2Proof/Laws/Hand.lean ====
section
/-! SUPPORT. What the hand-over of a configuration and the steps of recall leave alone: `Keeps` for each of their
parts, and the soundness of the writer's lists through the journal's establishment. -/

-- One theorem at a time, for the reason Laws/State.lean gives.
set_option Elab.async false

set_option linter.unusedTactic false
set_option linter.unreachableTactic false

namespace Sys2Proof.Machine

/-! ## The hand-over (R55 to R59) and the steps of recall (R174 to R180) -/

theorem Keeps.takeSlotSequences {u v : Tables} (h : Keeps u v) (l : List Byte) (c : Cab) :
    Keeps u (v.takeSlotSequences l c) := by
  unfold Tables.takeSlotSequences
  try dsimp only
  repeat' first
    | with_reducible assumption | with_reducible apply Keeps.markUrgent | with_reducible apply Keeps.setCab | split

theorem Keeps.takeMovedOrder {u v : Tables} (h : Keeps u v) (l : List Byte) (n : Slot) :
    Keeps u (v.takeMovedOrder l n) := by
  unfold Tables.takeMovedOrder
  try dsimp only
  repeat' first
    | with_reducible assumption | with_reducible apply Keeps.changeOrder | split

theorem Keeps.handMoved {u v : Tables} (h : Keeps u v) (a : Apply) :
    Keeps u (v.handMoved a) := by
  unfold Tables.handMoved
  try dsimp only
  repeat' first
    | with_reducible assumption | refine Keeps.foldl (fun _ _ _ => ?_) ?_
    | with_reducible apply Keeps.takeSlotSequences | with_reducible apply Keeps.takeMovedOrder | split

theorem Keeps.enterCab {u v : Tables} (h : Keeps u v) (w : CabCfg) (c : Cab) :
    Keeps u (v.enterCab w c) := by
  unfold Tables.enterCab
  try dsimp only
  repeat' first
    | with_reducible assumption | with_reducible apply Keeps.setCount | with_reducible apply Keeps.setMachine
    | with_reducible apply Keeps.setCab | split

theorem Keeps.enterCabs {u v : Tables} (h : Keeps u v) (w : Option Block) :
    Keeps u (v.enterCabs w) := by
  unfold Tables.enterCabs
  try dsimp only
  repeat' first
    | with_reducible assumption | refine Keeps.foldl (fun _ _ _ => ?_) ?_ | with_reducible apply Keeps.enterCab
    | split

theorem Keeps.applyStop {u v : Tables} (h : Keeps u v) (g : Grp) :
    Keeps u (v.applyStop g) := by
  unfold Tables.applyStop
  try dsimp only
  repeat' first
    | with_reducible assumption | with_reducible apply Keeps.stopLiveOf | split

theorem Keeps.enterString {u v : Tables} (h : Keeps u v) (w : Option Block) (b : Block) (s : Str) :
    Keeps u (v.enterString w b s) := by
  unfold Tables.enterString
  try dsimp only
  repeat' first
    | with_reducible assumption | with_reducible apply Keeps.markIf | with_reducible apply Keeps.markString
    | with_reducible apply Keeps.recomputeMark | with_reducible apply Keeps.applyThresholds
    | with_reducible apply Keeps.setStr | split

theorem Keeps.enterStrings {u v : Tables} (h : Keeps u v) (w : Option Block) (b : Block) :
    Keeps u (v.enterStrings w b) := by
  unfold Tables.enterStrings
  try dsimp only
  repeat' first
    | with_reducible assumption | refine Keeps.foldl (fun _ _ _ => ?_) ?_ | with_reducible apply Keeps.enterString
    | split

theorem Keeps.markAll {u v : Tables} (h : Keeps u v) :
    Keeps u (v.markAll) := by
  unfold Tables.markAll
  try dsimp only
  repeat' first
    | with_reducible assumption | refine Keeps.foldl (fun _ _ _ => ?_) ?_ | with_reducible apply Keeps.markUrgent
    | split

theorem Keeps.recallString {u v : Tables} (h : Keeps u v) (g : Got) (s : Str) :
    Keeps u (v.recallString g s) := by
  unfold Tables.recallString
  try dsimp only
  repeat' first
    | with_reducible assumption | with_reducible apply Keeps.markIf | with_reducible apply Keeps.markString
    | with_reducible apply Keeps.applyThresholds | with_reducible apply Keeps.journal
    | with_reducible apply Keeps.setStr | split

theorem Keeps.recallStop {u v : Tables} (h : Keeps u v) (g : Grp) (s : Str) :
    Keeps u (v.recallStop g s) := by
  unfold Tables.recallStop
  try dsimp only
  repeat' first
    | with_reducible assumption | with_reducible apply Keeps.setUnderTest | with_reducible apply Keeps.changeTest
    | split

theorem Keeps.recallEnd {u v : Tables} (h : Keeps u v) (s : Str) :
    Keeps u (v.recallEnd s) := by
  unfold Tables.recallEnd
  try dsimp only
  repeat' first
    | with_reducible assumption | with_reducible apply Keeps.journal | with_reducible apply Keeps.changeTest | split

theorem Keeps.recallGroupTests {u v : Tables} (h : Keeps u v) (g : Grp) :
    Keeps u (v.recallGroupTests g) := by
  unfold Tables.recallGroupTests
  try dsimp only
  repeat' first
    | with_reducible assumption | refine Keeps.foldl (fun _ _ _ => ?_) ?_ | with_reducible apply Keeps.recallEnd
    | with_reducible apply Keeps.recallStop | split

theorem Keeps.recallTests {u v : Tables} (h : Keeps u v) :
    Keeps u (v.recallTests) := by
  unfold Tables.recallTests
  try dsimp only
  repeat' first
    | with_reducible assumption | refine Keeps.foldl (fun _ _ _ => ?_) ?_
    | with_reducible apply Keeps.recallGroupTests | with_reducible apply Keeps.recallEnd | split

theorem Keeps.keepMark {u v : Tables} (h : Keeps u v) (s : Str) :
    Keeps u (v.keepMark s) := by
  unfold Tables.keepMark
  try dsimp only
  repeat' first
    | with_reducible assumption | with_reducible apply Keeps.markString | with_reducible apply Keeps.setStr | split

theorem Keeps.recallSlot {u v : Tables} (h : Keeps u v) (g : Got) (c : Cab) :
    Keeps u (v.recallSlot g c) := by
  unfold Tables.recallSlot
  try dsimp only
  repeat' first
    | with_reducible assumption | with_reducible apply Keeps.markIf | with_reducible apply Keeps.setCab | split

theorem Keeps.recallIssue {u v : Tables} (h : Keeps u v) (s : Str) :
    Keeps u (v.recallIssue s) := by
  unfold Tables.recallIssue
  try dsimp only
  repeat' first
    | with_reducible assumption | with_reducible apply Keeps.setGrp | with_reducible apply Keeps.changeTest
    | with_reducible apply Keeps.issueSup | split

theorem Keeps.recallSpent {u v : Tables} (h : Keeps u v) (l : Option (List Byte)) :
    Keeps u (v.recallSpent l) := by
  unfold Tables.recallSpent
  try dsimp only
  repeat' first
    | with_reducible assumption | refine Keeps.foldl (fun _ _ _ => ?_) ?_ | with_reducible apply Keeps.joinSpent
    | split

theorem Keeps.recallOrder {u v : Tables} (h : Keeps u v) (a b : Option (List Byte)) (n : Slot) :
    Keeps u (v.recallOrder a b n) := by
  unfold Tables.recallOrder
  try dsimp only
  repeat' first
    | with_reducible assumption | with_reducible apply Keeps.joinSpent | with_reducible apply Keeps.changeOrder
    | split

theorem Keeps.recallEndVisit {u v : Tables} (h : Keeps u v) (t : Con) (x : Visit) :
    Keeps u (v.recallEndVisit t x) := by
  unfold Tables.recallEndVisit
  try dsimp only
  repeat' first
    | with_reducible assumption | with_reducible apply Keeps.journal | with_reducible apply Keeps.joinSpent
    | with_reducible apply Keeps.changeVisit | split

theorem Keeps.recallVisit {u v : Tables} (h : Keeps u v) (a b : Option (List Byte)) (t : Con) :
    Keeps u (v.recallVisit a b t) := by
  unfold Tables.recallVisit
  try dsimp only
  repeat' first
    | with_reducible assumption | with_reducible apply Keeps.recallEndVisit | with_reducible apply Keeps.changeVisit
    | split

theorem Keeps.recallCab {u v : Tables} (h : Keeps u v) (c : Cab) :
    Keeps u (v.recallCab c) := by
  unfold Tables.recallCab
  try dsimp only
  repeat' first
    | with_reducible assumption | with_reducible apply Keeps.setCount | with_reducible apply Keeps.setMachine
    | with_reducible apply Keeps.setCab | split

theorem Keeps.recallGroup {u v : Tables} (h : Keeps u v) (g : Grp) :
    Keeps u (v.recallGroup g) := by
  unfold Tables.recallGroup
  try dsimp only
  repeat' first
    | with_reducible assumption | with_reducible apply Keeps.reevalGroup | split

theorem Keeps.recallStep7 {u v : Tables} (h : Keeps u v) :
    Keeps u (v.recallStep7) := by
  unfold Tables.recallStep7
  try dsimp only
  repeat' first
    | with_reducible assumption | refine Keeps.foldl (fun _ _ _ => ?_) ?_ | with_reducible apply Keeps.recallCab
    | with_reducible apply Keeps.reevalFlag | with_reducible apply Keeps.recallGroup | split

/-! ## The journal's establishment (R172, R179) -/

theorem Tables.only_judgeHeld (u : Tables) (e : HeldEntry) : OnlyWriter u (u.judgeHeld e) := by
  unfold Tables.judgeHeld
  split
  · split
    · exact ((u.only_setWriter _).trans (Tables.only_markUrgent _ _)).trans (Tables.only_evalAttn _)
    · exact u.only_setLost
  · exact .refl u

theorem Tables.only_numberHeld (u : Tables) : OnlyWriter u u.numberHeld := by
  have fold : ∀ (l : List HeldEntry) (v : Tables), OnlyWriter u v →
      OnlyWriter u (l.foldl (fun u e => u.judgeHeld e) v) := by
    intro l
    induction l with
    | nil => exact fun v hv => hv
    | cons e l ih => exact fun v hv => ih _ (hv.trans (v.only_judgeHeld e))
  exact (fold _ _ (u.only_setWriter _)).trans (Tables.only_setWriter _ _)

theorem Tables.only_establish (u : Tables) (h : JHead) (copy : List CopyEntry) : OnlyWriter u (u.establish h copy) := by
  unfold Tables.establish
  dsimp only
  refine OnlyWriter.trans ?_ (Tables.only_evalAttn _)
  have := ((u.only_setWriter { u.writer with head := some h, copy, heldDrop := false }).trans
    (Tables.only_tryLost _)).trans (Tables.only_numberHeld _)
  split
  · exact (this.trans (Tables.only_setLost _)).trans (Tables.only_tryLost _)
  · exact this

/-- An urgent mark and the lost mark leave the pending list as it is; the next stamp may rise. -/
theorem Tables.listed_markUrgent (u : Tables) (r : RecId) :
    (u.markUrgent r).writer.pending = u.writer.pending ∧ (u.markUrgent r).writer.held = u.writer.held ∧
      u.writer.stamp ≤ (u.markUrgent r).writer.stamp := by
  unfold Tables.markUrgent
  split
  · exact ⟨rfl, rfl, le_refl _⟩
  · simp only [Tables.setWriter, Writer.urgentMark]
    split
    · exact ⟨rfl, rfl, le_refl _⟩
    · exact ⟨rfl, rfl, Nat.le_succ _⟩

@[simp] theorem Tables.head_markUrgent (u : Tables) (r : RecId) : (u.markUrgent r).writer.head = u.writer.head := by
  unfold Tables.markUrgent
  split
  · rfl
  · simp only [Tables.setWriter, Writer.urgentMark]
    split <;> rfl

theorem Tables.listed_setLost (u : Tables) :
    u.setLost.writer.pending = u.writer.pending ∧ u.setLost.writer.held = u.writer.held ∧
      u.writer.stamp ≤ u.setLost.writer.stamp := by
  unfold Tables.setLost
  split
  · split
    · exact ⟨rfl, rfl, le_refl _⟩
    · exact Tables.listed_markUrgent _ _
  · exact ⟨rfl, rfl, le_refl _⟩

theorem Tables.head_tryLost (u : Tables) (h : u.writer.head ≠ none) : u.tryLost.writer.head ≠ none := by
  unfold Tables.tryLost
  split
  · split
    · simp [Tables.takeEntry, Tables.evalAttn, Writer.takeEntry, Writer.takeStamped]
    · exact h
  · exact h

/-- What numbering keeps while the entries `l` are still to be judged and `m` are the entries that stand behind them: the
writer is sound without them, and with them the pending list is within its bound and rises. -/
structure Numbering (l : List HeldEntry) (m : List PendEntry) (w : Writer) : Prop where
  sound : w.Sound
  held : w.held = []
  head : w.head ≠ none
  bound : w.pending.length + l.length + m.length ≤ pendingLimit
  rises : (w.pending.map (·.stamp) ++ l.map (·.stamp) ++ m.map (·.stamp) ++ [w.stamp]).Pairwise (· < ·)

theorem Tables.numbering_judgeHeld (u : Tables) (e : HeldEntry) (l : List HeldEntry) (m : List PendEntry)
    (h : Numbering (e :: l) m u.writer) : Numbering l m (u.judgeHeld e).writer := by
  obtain ⟨h1, h2, h3, h4, h5⟩ := h
  simp only [List.length_cons] at h4
  simp only [List.map_cons, List.append_assoc, List.cons_append] at h5
  cases hk : u.writer.head with
  | none => exact absurd hk h3
  | some k =>
    have taken : k.unconsumed < ringSize →
        Numbering l m (((u.setWriter (u.writer.takeStamped k e.entry e.stamp)).markUrgent .journalHeader).evalAttn).writer := by
      intro hu
      have hs : (u.writer.takeStamped k e.entry e.stamp).Sound := by
        refine u.writer.sound_takeStamped k k _ _ h1 hk rfl hu ?_ ?_
        · simp only [Writer.listed, h2, List.length_nil]
          omega
        · simp only [Writer.listedStamps, Writer.takeStamped, h2, List.map_nil, List.nil_append, List.map_append,
            List.map_cons, List.append_assoc, List.cons_append]
          refine h5.sublist (List.Sublist.append (List.Sublist.refl _) (List.Sublist.cons_cons _ ?_))
          rw [← List.append_assoc]
          exact List.sublist_append_right _ _
      obtain ⟨p1, p2, p3⟩ := (u.setWriter (u.writer.takeStamped k e.entry e.stamp)).listed_markUrgent .journalHeader
      refine ⟨Tables.sound_evalAttn _ (Tables.sound_markUrgent _ _ hs), ?_, ?_, ?_, ?_⟩
      · exact p2.trans h2
      · exact (Tables.head_markUrgent _ _).trans_ne (by simp [Writer.takeStamped])
      · simp only [Tables.evalAttn, p1]
        simp only [Tables.setWriter, Writer.takeStamped, List.length_append, List.length_singleton]
        omega
      · simp only [Tables.evalAttn, p1]
        refine rising_next ?_ p3
        simpa [Tables.setWriter, Writer.takeStamped] using h5
    have dropped : Numbering l m u.setLost.writer := by
      obtain ⟨p1, p2, p3⟩ := u.listed_setLost
      refine ⟨u.sound_setLost h1, p2.trans h2, ?_, ?_, ?_⟩
      · simp only [Tables.setLost, hk]
        split <;> simp [hk]
      · rw [p1]
        omega
      · rw [p1]
        refine rising_next (h5.sublist ?_) p3
        simp only [List.append_assoc]
        exact List.Sublist.append (List.Sublist.refl _) (List.sublist_cons_self _ _)
    simp only [Tables.judgeHeld, hk]
    split
    · next hu => exact taken hu
    · exact dropped

theorem Tables.sound_numberHeld (u : Tables) (h : u.writer.Sound) (hn : u.writer.head ≠ none) :
    u.numberHeld.writer.Sound := by
  have fold : ∀ (l : List HeldEntry) (m : List PendEntry) (v : Tables), Numbering l m v.writer →
      Numbering [] m (l.foldl (fun u e => u.judgeHeld e) v).writer := by
    intro l m
    induction l with
    | nil => exact fun v hv => hv
    | cons e l ih => exact fun v hv => ih _ (v.numbering_judgeHeld e l m hv)
  obtain ⟨h1, h2, h3, h4, h5, h6, h7⟩ := h
  have start : Numbering u.writer.held u.writer.pending { u.writer with held := [], pending := [] } := by
    refine ⟨⟨by simp [Writer.listed], h2, h3, h4, fun _ => rfl, h6, by simp [Writer.listedStamps]⟩, rfl, hn, ?_, ?_⟩
    · simpa [Writer.listed] using h1
    · simpa [Writer.listedStamps] using h7
  have := fold u.writer.held u.writer.pending (u.setWriter { u.writer with held := [], pending := [] }) start
  unfold Tables.numberHeld
  dsimp only
  revert this
  generalize List.foldl _ _ _ = v
  rintro ⟨⟨k1, k2, k3, k4, k5, k6, k7⟩, p2, p3, p4, p5⟩
  refine ⟨?_, k2, k3, k4, fun hv => absurd hv p3, k6, ?_⟩
  · simp only [List.length_nil, Nat.add_zero] at p4
    simpa [Writer.listed, Tables.setWriter, p2] using p4
  · simpa [Writer.listedStamps, Tables.setWriter, p2] using p5

/-- The head and copy established keep the writer's lists sound where the copy holds the head's unconsumed places. -/
theorem Tables.sound_establish (u : Tables) (h : JHead) (copy : List CopyEntry) (hs : u.writer.Sound)
    (hn : h.unconsumed ≤ ringSize)
    (hc : copy.map (fun e => (e.entry.seq, e.pos)) = (List.range h.unconsumed).map h.place) :
    (u.establish h copy).writer.Sound := by
  obtain ⟨h1, h2, -, -, -, h6, h7⟩ := hs
  unfold Tables.establish
  dsimp only
  refine Tables.sound_evalAttn _ ?_
  have := Tables.sound_numberHeld
    ((u.setWriter { u.writer with head := some h, copy, heldDrop := false }).tryLost)
    (Tables.sound_tryLost _ ⟨h1, h2, by simpa [Writer.places] using hc, by simpa [Writer.unconsumed] using hn, by simp,
      h6, h7⟩) ?_
  · split
    · exact Tables.sound_tryLost _ (Tables.sound_setLost _ this)
    · exact this
  · exact Tables.head_tryLost _ (by simp)

/-- The copy that recall reads holds the head's unconsumed places. -/
theorem recalledCopy_places (h : JHead) (ring : Got) :
    (recalledCopy h ring).map (fun e => (e.entry.seq, e.pos)) = (List.range h.unconsumed).map h.place := by
  unfold recalledCopy
  rw [List.map_map]
  refine List.map_congr_left fun i _ => ?_
  simp only [Function.comp_apply, recalledEntry, JHead.place]
  split
  · split
    · next e hs => simp [hs]
    · rfl
  · rfl

end Sys2Proof.Machine
end

