-- ==== Sys2Proof/Laws/Map.lean ====
section
/-! SUPPORT. The map decoder over a placed configuration: where an access lies, which of the decision steps it passes,
and what a row's grant then answers. -/

-- One theorem at a time, for the reason Laws/State.lean gives.
set_option Elab.async false
set_option linter.unusedTactic false
set_option linter.unreachableTactic false

namespace Sys2Proof.Machine

/-! ## Zones -/

theorem mem_allAreas (z : Area) : z ∈ allAreas := by cases z <;> decide

theorem find_eq_some_of_unique {α : Type} {p : α → Bool} {l : List α} {x : α} (hx : x ∈ l) (hp : p x = true)
    (hu : ∀ y ∈ l, p y = true → y = x) : l.find? p = some x := by
  cases h : l.find? p with
  | none => exact absurd hp (by simpa using List.find?_eq_none.mp h x hx)
  | some y => rw [hu y (List.mem_of_find?_eq_some h) (List.find?_some h)]

theorem Range.overlaps_iff (a b : Range) : a.overlaps b = true ↔ a.1 < b.1 + b.2 ∧ b.1 < a.1 + a.2 := by
  simp [Range.overlaps]

theorem Range.overlaps_comm (a b : Range) : a.overlaps b = b.overlaps a := by
  rw [Bool.eq_iff_iff, Range.overlaps_iff, Range.overlaps_iff]; tauto

/-- The zones of an active configuration with their ranges. -/
theorem Tables.zones_active (u : Tables) (b : Block) (h : u.active = some b) :
    u.zones = (Zone.window, windowRange) :: allAreas.map fun a => (Zone.area a, (b.base a, a.size)) := by
  simp [Tables.zones, h]

theorem Tables.zones_map (u : Tables) (b : Block) (h : u.active = some b) : u.zones.map (·.2) = b.ranges := by
  rw [u.zones_active b h]
  simp [Block.ranges]

/-- The ranges of different zones do not overlap. -/
theorem Tables.zones_disjoint (u : Tables) (b : Block) (h : u.active = some b) (hp : b.Placed) :
    ∀ x ∈ u.zones, ∀ y ∈ u.zones, x ≠ y → x.2.overlaps y.2 = false := by
  have hw : u.zones.Pairwise fun x y => x.2.overlaps y.2 = false := by
    have := hp.2
    rw [← u.zones_map b h, List.pairwise_map] at this
    exact this
  have : Std.Symm (fun x y : Zone × Range => x.2.overlaps y.2 = false) :=
    ⟨fun a b hab => by rw [Range.overlaps_comm]; exact hab⟩
  exact fun x hx y hy hne => List.Pairwise.forall hw hx hy hne

/-- An access wholly in a zone touches that zone. -/
theorem Tables.touched_of_mem (u : Tables) (b : Block) (h : u.active = some b) (hp : b.Placed) (a : Access)
    (z : Zone × Range) (hz : z ∈ u.zones) (h1 : z.2.1 ≤ a.addr) (h2 : a.addr + a.len ≤ z.2.1 + z.2.2)
    (hl : 1 ≤ a.len) : u.touched a = some z := by
  refine find_eq_some_of_unique hz ?_ (fun y hy hov => ?_)
  · rw [Range.overlaps_iff]; simp only [Access.range]; omega
  · by_contra hne
    have := u.zones_disjoint b h hp y hy z hz hne
    rw [Range.overlaps_iff] at hov
    rw [Bool.eq_false_iff, Ne, Range.overlaps_iff] at this
    simp only [Access.range] at hov
    omega

theorem Tables.mem_zones_area (u : Tables) (b : Block) (h : u.active = some b) (z : Area) :
    (Zone.area z, (b.base z, z.size)) ∈ u.zones := by
  rw [u.zones_active b h]
  exact List.mem_cons_of_mem _ (List.mem_map.mpr ⟨z, mem_allAreas z, rfl⟩)

theorem Tables.touched_area (u : Tables) (b : Block) (h : u.active = some b) (hp : b.Placed) (a : Access) (z : Area)
    (h1 : b.base z ≤ a.addr) (h2 : a.addr + a.len ≤ b.base z + z.size) (hl : 1 ≤ a.len) :
    u.touched a = some (.area z, (b.base z, z.size)) :=
  u.touched_of_mem b h hp a _ (u.mem_zones_area b h z) h1 h2 hl

/-- An access wholly in the config window touches it, with or without a configuration. -/
theorem Tables.touched_window (u : Tables) (a : Access) (h2 : a.addr + a.len ≤ 0x400) (hl : 1 ≤ a.len) :
    u.touched a = some (.window, windowRange) := by
  have : a.range.overlaps windowRange = true := by
    rw [Range.overlaps_iff]; simp only [Access.range, windowRange, Config.windowSize]; omega
  simp [Tables.touched, Tables.zones, this]

/-- An access that overlaps no zone touches none. -/
theorem Tables.touched_none (u : Tables) (b : Block) (h : u.active = some b) (a : Access)
    (hc : ∀ x ∈ b.ranges, ¬ (a.addr < x.1 + x.2 ∧ x.1 < a.addr + a.len)) : u.touched a = none := by
  rw [Tables.touched, List.find?_eq_none]
  intro y hy
  have : y.2 ∈ b.ranges := by rw [← u.zones_map b h]; exact List.mem_map_of_mem hy
  rw [Range.overlaps_iff]
  exact hc _ this

/-- A placed area is clear of the config window and ends within record memory. -/
theorem Block.Placed.area (b : Block) (hp : b.Placed) (z : Area) :
    0x400 ≤ b.base z ∧ b.base z + z.size ≤ Config.memorySize := by
  refine ⟨?_, hp.1 z (mem_allAreas z)⟩
  have h := (List.pairwise_cons.mp hp.2).1 (b.base z, z.size) (List.mem_map.mpr ⟨z, mem_allAreas z, rfl⟩)
  rw [Bool.eq_false_iff, Ne, Range.overlaps_iff] at h
  simp only [windowRange, Config.windowSize] at h
  have : 0 < z.size := by cases z <;> decide
  omega

/-! ## The decision steps (R29) -/

theorem firstDenial_cons (p : Bool) (d : Denial) (l : List (Bool × Denial)) :
    firstDenial ((p, d) :: l) = if p then firstDenial l else some d := rfl

theorem firstDenial_nil : firstDenial [] = none := rfl

theorem Access.console_of_tag (a : Access) (t : Con) (h : a.tag = byteOf t.val) : a.console = some t := by
  have ht : (byteOf t.val).toNat = t.val := by
    simp only [byteOf, BitVec.toNat_ofNat]; omega
  unfold Access.console
  rw [dif_pos (by rw [h, ht]; exact t.isLt)]
  congr 1
  exact Fin.ext (by simp [h, ht])

theorem Access.console_isSome (a : Access) (h : a.tag.toNat ≤ 3) : a.console.isSome = true := by
  unfold Access.console
  rw [dif_pos (by omega)]
  rfl

theorem Tables.tagCab_of_tag (u : Tables) (a : Access) (c : Cab) (h : a.tag = byteOf c.val)
    (hp : u.present c = true) : u.tagCab a = some c := by
  have ht : (byteOf c.val).toNat = c.val := by
    simp only [byteOf, BitVec.toNat_ofNat]; omega
  have hc : (⟨a.tag.toNat, by rw [h, ht]; exact c.isLt⟩ : Cab) = c := Fin.ext (by simp [h, ht])
  unfold Tables.tagCab
  rw [dif_pos (by rw [h, ht]; exact c.isLt)]
  simp only [hc, hp, if_true]

/-- An access wholly in an area passes steps 1 to 6, where its port may speak at all. -/
theorem Tables.decode_area (u : Tables) (b : Block) (h : u.active = some b) (hp : b.Placed) (a : Access) (z : Area)
    (h1 : b.base z ≤ a.addr) (h2 : a.addr + a.len ≤ b.base z + z.size) (hl : 1 ≤ a.len)
    (hs : a.port = .svc → u.key = .service ∧ a.tag.toNat ≤ 3) : firstDenial (u.decodeChecks a) = none := by
  obtain ⟨hw, he⟩ := hp.area b z
  simp only [Config.memorySize] at he
  have hr : a.inRange = true := decide_eq_true (by show a.addr + a.len ≤ 0x100000; omega)
  have ht : a.touchesWindow = false := by
    rw [Access.touchesWindow, Bool.eq_false_iff, Ne, Range.overlaps_iff]
    simp only [Access.range, windowRange, Config.windowSize]; omega
  have hn : u.nomap = false := by simp [Tables.nomap, h]
  have hi : a.range.inside (b.base z, z.size) = true :=
    decide_eq_true (by show b.base z ≤ a.addr ∧ a.addr + a.len ≤ b.base z + z.size; omega)
  have hk : (a.port == .svc && u.key == .locked) = false := by
    by_cases hsv : a.port = .svc
    · simp [(hs hsv).1]
    · simp [hsv]
  have hg : (a.port == .svc && a.console.isNone) = false := by
    by_cases hsv : a.port = .svc
    · have := a.console_isSome (hs hsv).2
      cases hcc : a.console with
      | none => simp [hcc] at this
      | some t => simp
    · simp [hsv]
  simp [Tables.decodeChecks, firstDenial, hr, hn, hk, hg, ht, u.touched_area b h hp a z h1 h2 hl, hi]

/-- An access clear of the window and of every area passes steps 1 to 6, where its port may speak at all. -/
theorem Tables.decode_plain (u : Tables) (b : Block) (h : u.active = some b) (a : Access)
    (hc : ∀ x ∈ b.ranges, ¬ (a.addr < x.1 + x.2 ∧ x.1 < a.addr + a.len)) (hr : a.addr + a.len ≤ 0x100000)
    (hs : a.port = .svc → u.key = .service ∧ a.tag.toNat ≤ 3) : firstDenial (u.decodeChecks a) = none := by
  have hr : a.inRange = true := decide_eq_true (by show a.addr + a.len ≤ 0x100000; omega)
  have ht : a.touchesWindow = false := by
    rw [Access.touchesWindow, Bool.eq_false_iff, Ne, Range.overlaps_iff]
    exact hc windowRange (by simp [Block.ranges])
  have hn : u.nomap = false := by simp [Tables.nomap, h]
  have hk : (a.port == .svc && u.key == .locked) = false := by
    by_cases hsv : a.port = .svc
    · simp [(hs hsv).1]
    · simp [hsv]
  have hg : (a.port == .svc && a.console.isNone) = false := by
    by_cases hsv : a.port = .svc
    · have := a.console_isSome (hs hsv).2
      cases hcc : a.console with
      | none => simp [hcc] at this
      | some t => simp
    · simp [hsv]
  simp [Tables.decodeChecks, firstDenial, hr, hn, hk, hg, ht, u.touched_none b h a hc]

/-! ## A row's grant -/

/-- The rows of a write wholly in an area. -/
theorem Tables.rowsOf_area (u : Tables) (b : Block) (h : u.active = some b) (hp : b.Placed) (a : Access) (z : Area)
    (h1 : b.base z ≤ a.addr) (h2 : a.addr + a.len ≤ b.base z + z.size) (hl : 1 ≤ a.len) (hk : a.kind = .write) :
    u.rowsOf a = [writeRow (.area z) a.port (a.addr - b.base z) a.data] := by
  obtain ⟨hw, he⟩ := hp.area b z
  simp only [Config.memorySize] at he
  have hr : a.inRange = true := decide_eq_true (by show a.addr + a.len ≤ 0x100000; omega)
  have hi : a.inWindow = false := decide_eq_false (by show ¬ a.addr + a.len ≤ 0x400; omega)
  have hn : u.nomap = false := by simp [Tables.nomap, h]
  simp [Tables.rowsOf, hk, hi, hr, hn, u.touched_area b h hp a z h1 h2 hl]

/-- The grant of a row that the chosen access has. -/
theorem State.grantRow_of (s : State) (a : Access) (r : Row) (hc : s.choice = some (.port a))
    (hr : (s.tables.rowsOf a).contains r = true) : s.grantRow r = .next (s.grantPort a) := by
  simp only [State.grantRow, hc, hr, if_true]

theorem State.grantPort_ok (s : State) (a : Access) (u : Tables) (p : Passed) (h : s.tables.decideAccess a = (u, .ok p)) :
    s.grantPort a = s.inFlight u a p.ops p.permitted p.take := by
  simp [State.grantPort, h, State.inFlight, State.setTables]

theorem State.grantPort_error (s : State) (a : Access) (u : Tables) (d : Denial)
    (h : s.tables.decideAccess a = (u, .error d)) : s.grantPort a = s.refusedAtGrant u a d.1 d.2 := by
  simp [State.grantPort, h, State.refusedAtGrant, State.setTables, State.answer]

/-- The decision of a typed write that passes the decode, its rights, its shape, its slot right and its check byte. -/
theorem Tables.decide_typed (u : Tables) (b : Block) (h : u.active = some b) (hp : b.Placed) (a : Access) (z : Area)
    (h1 : b.base z ≤ a.addr) (h2 : a.addr + a.len ≤ b.base z + z.size) (hl : 1 ≤ a.len) (hk : a.kind = .write)
    (hs : a.port = .svc → u.key = .service ∧ a.tag.toNat ≤ 3) (hm : (Zone.area z).mayWrite a.port = true)
    (t : Target) (ht : targetAt (.area z) (a.addr - b.base z) a.len = some t)
    (hc : (u.slotCheck a t).1 = true) (hb : t.checked = true → checkHolds a.data = true) :
    u.decideAccess a =
      match u.judgeTarget a t with
      | (v, .error d) => (v, .error d)
      | (v, .ok take) => (v, .ok (wholeWrite a take)) := by
  have hb' : (!t.checked || checkHolds a.data) = true := by
    by_cases hx : t.checked = true
    · simp [hb hx]
    · simp [hx]
  obtain ⟨x, y, hxy⟩ : ∃ x y, u.slotCheck a t = (x, y) := ⟨_, _, rfl⟩
  rw [hxy] at hc
  simp only [Tables.decideAccess, u.decode_area b h hp a z h1 h2 hl hs, u.touched_area b h hp a z h1 h2 hl, hk,
    Tables.decideTypedWrite, hm, ht, hxy, firstDenial, hb', hc]
  simp only [Bool.not_true, Bool.false_eq_true, if_false, if_true]
  all_goals (rcases u.judgeTarget a t with ⟨v, d | k⟩ <;> rfl)

/-- The grant of a typed write's row, by its owning unit's judgement. -/
theorem State.grant_typed (s : State) (a : Access) (z : Area) (off n : Nat) (r : Row) (t : Target)
    (hw : s.Writes a z off n) (hn : 1 ≤ n) (hz : off + n ≤ z.size)
    (hs : a.port = .svc → s.tables.key = .service ∧ a.tag.toNat ≤ 3)
    (hm : (Zone.area z).mayWrite a.port = true) (hr : writeRow (.area z) a.port off a.data = r)
    (ht : targetAt (.area z) off n = some t) (hc : (s.tables.slotCheck a t).1 = true)
    (hb : t.checked = true → checkHolds a.data = true) :
    s.grantRow r =
      match s.tables.judgeTarget a t with
      | (v, .error d) => .next (s.refusedAtGrant v a d.1 d.2)
      | (v, .ok take) => .next (s.inFlightWrite v a take) := by
  obtain ⟨hch, hk, hlen, hdata, b, hact, hp, haddr⟩ := hw
  have h1 : b.base z ≤ a.addr := by omega
  have h2 : a.addr + a.len ≤ b.base z + z.size := by omega
  have hl : 1 ≤ a.len := by omega
  have hoff : a.addr - b.base z = off := by omega
  have hrow := s.tables.rowsOf_area b hact hp a z h1 h2 hl hk
  rw [hoff, hr] at hrow
  rw [s.grantRow_of a r hch (by simp [hrow])]
  have hd := s.tables.decide_typed b hact hp a z h1 h2 hl hk hs hm t (by rw [hoff, hlen]; exact ht) hc hb
  split at hd
  · next v d hj => rw [s.grantPort_error a v d hd]
  · next v take hj => rw [s.grantPort_ok a v _ hd]; simp [wholeWrite, State.inFlightWrite, hlen]

end Sys2Proof.Machine
end

