-- ==== Sys2Proof/Laws/Memory.lean ====
section
/-! SUPPORT. Record memory: every operation keeps the canonical form, and what each leaves readable at an address. -/

-- One theorem at a time, for the reason Laws/State.lean gives.
set_option Elab.async false

namespace Sys2Proof.Machine

/-! ## Sorted cells and addresses -/

theorem strictlyRising_iff (l : List Nat) : strictlyRising l = true ↔ l.Pairwise (· < ·) := by
  induction l with
  | nil => simp [strictlyRising]
  | cons a l ih =>
    cases l with
    | nil => simp [strictlyRising]
    | cons b l =>
      rw [strictlyRising, Bool.and_eq_true, ih, decide_eq_true_iff, List.pairwise_cons (a := a)]
      constructor
      · rintro ⟨h, h2⟩
        refine ⟨fun x hx => ?_, h2⟩
        rcases List.mem_cons.mp hx with rfl | hx
        · exact h
        · exact Nat.lt_trans h ((List.pairwise_cons.mp h2).1 x hx)
      · rintro ⟨h, h2⟩
        exact ⟨h b (by simp), h2⟩

/-- The cells of a canonical memory. -/
def cellsOk (l : List Host.Cell) : Prop :=
  (l.map (·.1)).Pairwise (· < ·) ∧ ∀ c ∈ l, c.2 ≠ Config.emptyByte

theorem Memory.wf_iff (m : Memory) :
    m.wf = true ↔
      cellsOk m.cells ∧ m.undefined.Pairwise (· < ·) ∧ ∀ a ∈ m.undefined, a ∉ m.cells.map (·.1) := by
  simp only [Memory.wf, Bool.and_eq_true, strictlyRising_iff, cellsOk, List.all_eq_true, decide_eq_true_iff,
    Bool.not_eq_true', List.contains_eq_mem, decide_eq_false_iff_not]
  tauto

theorem mem_cellPut (l : List Host.Cell) (x : Nat) (v : Byte) (c : Host.Cell) :
    c ∈ cellPut l x v → (c = (x, v) ∧ v ≠ Config.emptyByte) ∨ c ∈ l := by
  induction l with
  | nil => simp only [cellPut]; split_ifs <;> simp_all
  | cons d l ih =>
    obtain ⟨a, b⟩ := d
    simp only [cellPut]
    split_ifs <;> simp only [List.mem_cons] <;> tauto

theorem key_cellPut (l : List Host.Cell) (x y : Nat) (v : Byte) (h : y ∈ (cellPut l x v).map (·.1)) :
    (y = x ∧ v ≠ Config.emptyByte) ∨ y ∈ l.map (·.1) := by
  obtain ⟨c, hc, rfl⟩ := List.mem_map.mp h
  rcases mem_cellPut l x v c hc with ⟨rfl, hv⟩ | hm
  · exact .inl ⟨rfl, hv⟩
  · exact .inr (List.mem_map_of_mem hm)

theorem cellsOk_cellPut (l : List Host.Cell) (x : Nat) (v : Byte) (h : cellsOk l) : cellsOk (cellPut l x v) := by
  obtain ⟨h1, h2⟩ := h
  refine ⟨?_, ?_⟩
  · induction l with
    | nil => simp only [cellPut]; split_ifs <;> simp
    | cons d l ih =>
      obtain ⟨a, b⟩ := d
      simp only [List.map_cons, List.pairwise_cons] at h1
      have hrest : ∀ c ∈ l, c.2 ≠ Config.emptyByte := fun c hc => h2 c (List.mem_cons_of_mem _ hc)
      have ih := ih h1.2 hrest
      simp only [cellPut]
      split_ifs with h3 h4 h5 h6
      · simpa using h1
      · simp only [List.map_cons, List.pairwise_cons, List.mem_cons]
        refine ⟨?_, h1.1, h1.2⟩
        rintro y (rfl | hy)
        · exact h3
        · exact Nat.lt_trans h3 (h1.1 y hy)
      · exact h1.2
      · subst h5
        simpa using h1
      · simp only [List.map_cons, List.pairwise_cons]
        refine ⟨fun y hy => ?_, ih⟩
        rcases key_cellPut l x y v hy with ⟨rfl, -⟩ | hy
        · omega
        · exact h1.1 y hy
  · intro c hc
    rcases mem_cellPut l x v c hc with ⟨rfl, h⟩ | h
    · exact h
    · exact h2 c h

theorem cellAt_of_not_key (l : List Host.Cell) (x : Nat) (h : x ∉ l.map (·.1)) : cellAt l x = Config.emptyByte := by
  induction l with
  | nil => rfl
  | cons d l ih =>
    obtain ⟨a, b⟩ := d
    simp only [List.map_cons, List.mem_cons, not_or] at h
    simp [cellAt, h.1, ih h.2]

theorem cellAt_cellPut (l : List Host.Cell) (x y : Nat) (v : Byte) (h : cellsOk l) :
    cellAt (cellPut l x v) y = if y = x then v else cellAt l y := by
  obtain ⟨h1, h2⟩ := h
  induction l with
  | nil => simp only [cellPut]; split_ifs <;> simp_all [cellAt]
  | cons d l ih =>
    obtain ⟨a, b⟩ := d
    simp only [List.map_cons, List.pairwise_cons] at h1
    have ih := ih h1.2 (fun c hc => h2 c (List.mem_cons_of_mem _ hc))
    have hle : ∀ z, z ≤ a → z ∉ l.map (·.1) := fun z hz hm => by have := h1.1 z hm; omega
    simp only [cellPut]
    split_ifs with h3 h4 h5 h6 h7 h7 h7 h7 h7 <;> simp_all [cellAt]
    all_goals try (rw [if_neg (by omega)])
    all_goals try exact cellAt_of_not_key _ _ (by simpa using hle _ (by omega))

theorem mem_addrInsert (l : List Nat) (x y : Nat) : y ∈ addrInsert l x ↔ y = x ∨ y ∈ l := by
  induction l with
  | nil => simp [addrInsert]
  | cons a l ih => simp only [addrInsert]; split_ifs <;> simp_all; tauto

theorem rising_addrInsert (l : List Nat) (x : Nat) (h : l.Pairwise (· < ·)) :
    (addrInsert l x).Pairwise (· < ·) := by
  induction l with
  | nil => simp [addrInsert]
  | cons a l ih =>
    rw [List.pairwise_cons] at h
    simp only [addrInsert]
    split_ifs with h1 h2
    · rw [List.pairwise_cons, List.pairwise_cons]
      refine ⟨fun y hy => ?_, h⟩
      rcases List.mem_cons.mp hy with rfl | hy
      · exact h1
      · exact Nat.lt_trans h1 (h.1 y hy)
    · exact List.pairwise_cons.mpr h
    · rw [List.pairwise_cons]
      refine ⟨fun y hy => ?_, ih h.2⟩
      rcases (mem_addrInsert l x y).mp hy with rfl | hy
      · omega
      · exact h.1 y hy

theorem addrRemove_sublist (l : List Nat) (x : Nat) : (addrRemove l x).Sublist l := by
  induction l with
  | nil => simp [addrRemove]
  | cons a l ih =>
    simp only [addrRemove]
    split_ifs
    · exact List.sublist_cons_self a l
    · exact ih.cons_cons a

theorem mem_addrRemove (l : List Nat) (x y : Nat) (h : l.Pairwise (· < ·)) :
    y ∈ addrRemove l x ↔ y ≠ x ∧ y ∈ l := by
  induction l with
  | nil => simp [addrRemove]
  | cons a l ih =>
    rw [List.pairwise_cons] at h
    simp only [addrRemove]
    split_ifs with h1
    · subst h1
      simp only [List.mem_cons]
      constructor
      · intro hy
        have := h.1 y hy
        exact ⟨by omega, .inr hy⟩
      · tauto
    · simp only [List.mem_cons, ih h.2]
      constructor
      · rintro (rfl | hy)
        · exact ⟨fun h => h1 h.symm, .inl rfl⟩
        · tauto
      · tauto

/-! ## The canonical form -/

theorem Memory.wf_reset : Memory.reset.wf = true := rfl

theorem Memory.wf_putByte (m : Memory) (a : Nat) (v : Byte) (h : m.wf = true) : (m.putByte a v).wf = true := by
  rw [Memory.wf_iff] at h ⊢
  obtain ⟨h1, h2, h3⟩ := h
  refine ⟨cellsOk_cellPut _ _ _ h1, h2.sublist (addrRemove_sublist _ _), fun x hx hk => ?_⟩
  have hx := (mem_addrRemove _ _ _ h2).mp hx
  rcases key_cellPut _ _ _ _ hk with ⟨h, -⟩ | h
  · exact hx.1 h
  · exact h3 x hx.2 h

theorem Memory.wf_spoilByte (m : Memory) (a : Nat) (h : m.wf = true) : (m.spoilByte a).wf = true := by
  rw [Memory.wf_iff] at h ⊢
  obtain ⟨h1, h2, h3⟩ := h
  refine ⟨cellsOk_cellPut _ _ _ h1, rising_addrInsert _ _ h2, fun x hx hk => ?_⟩
  have hok := cellsOk_cellPut m.cells a Config.emptyByte h1
  rcases (mem_addrInsert _ _ _).mp hx with rfl | hx
  · obtain ⟨c, hc, he⟩ := List.mem_map.mp hk
    have h0 : cellAt (cellPut m.cells x Config.emptyByte) x = Config.emptyByte := by
      rw [cellAt_cellPut _ _ _ _ h1, if_pos rfl]
    have hne := hok.2 c hc
    have : ∀ l : List Host.Cell, (l.map (·.1)).Pairwise (· < ·) → c ∈ l → cellAt l c.1 = c.2 := by
      intro l hl hm
      induction l with
      | nil => simp at hm
      | cons d l ih =>
        obtain ⟨a, b⟩ := d
        simp only [List.map_cons, List.pairwise_cons] at hl
        rcases List.mem_cons.mp hm with rfl | hm
        · simp [cellAt]
        · have := hl.1 c.1 (List.mem_map_of_mem hm)
          rw [cellAt, if_neg (by omega), ih hl.2 hm]
    have := this _ hok.1 hc
    rw [he] at this
    exact hne (this.symm.trans h0)
  · rcases key_cellPut _ _ _ _ hk with ⟨-, h⟩ | h
    · exact h rfl
    · exact h3 x hx h

theorem Memory.wf_putBytes (m : Memory) (a : Nat) (l : List Byte) (h : m.wf = true) : (m.putBytes a l).wf = true := by
  induction l generalizing m a with
  | nil => exact h
  | cons v l ih => exact ih _ _ (m.wf_putByte a v h)

theorem Memory.wf_spoil (m : Memory) (a n : Nat) (h : m.wf = true) : (m.spoil a n).wf = true := by
  induction n generalizing m a with
  | zero => exact h
  | succ n ih => exact ih _ _ (m.wf_spoilByte a h)

theorem Memory.wf_takeByte (m : Memory) (a : Nat) (h : m.wf = true) : (m.takeByte a).2.wf = true := by
  unfold Memory.takeByte
  split
  · exact h
  · exact h

theorem Memory.wf_takeBytes (m : Memory) (a n : Nat) (h : m.wf = true) : (m.takeBytes a n).2.wf = true := by
  induction n generalizing m a with
  | zero => exact h
  | succ n ih => exact ih _ _ (m.wf_takeByte a h)

theorem Memory.wf_perform (m : Memory) (o : MemOp) (h : m.wf = true) : (m.perform o).2.wf = true := by
  cases o with
  | read a n => exact m.wf_takeBytes a n h
  | write a l => exact m.wf_putBytes a l h

theorem Memory.wf_faulted (m : Memory) (o : MemOp) (h : m.wf = true) : (m.faulted o).wf = true := by
  cases o with
  | read a n => exact h
  | write a l => exact m.wf_spoil a l.length h

theorem Memory.wf_performAll (m : Memory) (l : List MemOp) (h : m.wf = true) : (m.performAll l).2.wf = true := by
  induction l generalizing m with
  | nil => exact h
  | cons o l ih => exact ih _ (m.wf_perform o h)

theorem Memory.wf_performFault (m : Memory) (l : List MemOp) (k : Nat) (h : m.wf = true) :
    (m.performFault l k).wf = true := by
  induction l generalizing m k with
  | nil => simpa [Memory.performFault] using h
  | cons o l ih =>
    cases l with
    | nil => simpa [Memory.performFault] using m.wf_faulted o h
    | cons p l =>
      cases k with
      | zero => simpa [Memory.performFault] using m.wf_faulted o h
      | succ k => simpa [Memory.performFault] using ih (m.perform o).2 k (m.wf_perform o h)

theorem Memory.wf_cutOff (m : Memory) (l : List MemOp) (h : m.wf = true) : (m.cutOff l).wf = true :=
  Memory.wf_performFault _ l _ h

/-! ## What an address holds -/

theorem Memory.look_putByte (m : Memory) (a x : Nat) (v : Byte) (h : m.wf = true) :
    (m.putByte a v).look x = if x = a then some v else m.look x := by
  rw [Memory.wf_iff] at h
  simp only [Memory.look, Memory.putByte, mem_addrRemove _ _ _ h.2.1, cellAt_cellPut _ _ _ _ h.1]
  by_cases hx : x = a <;> simp [hx]

theorem Memory.look_spoilByte (m : Memory) (a x : Nat) (h : m.wf = true) :
    (m.spoilByte a).look x = if x = a then none else m.look x := by
  rw [Memory.wf_iff] at h
  simp only [Memory.look, Memory.spoilByte, mem_addrInsert, cellAt_cellPut _ _ _ _ h.1]
  by_cases hx : x = a <;> simp [hx]

theorem Memory.look_putBytes (m : Memory) (a x : Nat) (l : List Byte) (h : m.wf = true) :
    (m.putBytes a l).look x = if a ≤ x ∧ x < a + l.length then l[x - a]? else m.look x := by
  induction l generalizing m a with
  | nil => simp [Memory.putBytes]
  | cons v l ih =>
    rw [Memory.putBytes, ih _ _ (m.wf_putByte a v h), m.look_putByte a x v h]
    by_cases h1 : x = a
    · subst h1
      rw [if_neg (by omega), if_pos rfl, if_pos (by simp)]
      simp
    · rw [if_neg h1]
      by_cases h2 : a + 1 ≤ x ∧ x < a + 1 + l.length
      · rw [if_pos h2, if_pos (by simp only [List.length_cons]; omega)]
        rw [show x - a = (x - (a + 1)) + 1 by omega]
        simp
      · rw [if_neg h2, if_neg (by simp only [List.length_cons]; omega)]

theorem Memory.look_spoil (m : Memory) (a x n : Nat) (h : m.wf = true) :
    (m.spoil a n).look x = if a ≤ x ∧ x < a + n then none else m.look x := by
  induction n generalizing m a with
  | zero => simp [Memory.spoil]
  | succ n ih =>
    rw [Memory.spoil, ih _ _ (m.wf_spoilByte a h), m.look_spoilByte a x h]
    by_cases h1 : x = a
    · subst h1
      rw [if_neg (by omega), if_pos rfl, if_pos (by omega)]
    · by_cases h2 : a + 1 ≤ x ∧ x < a + 1 + n
      · rw [if_pos h2, if_pos (by omega)]
      · rw [if_neg h2, if_neg h1, if_neg (by omega)]

/-- A read changes nothing that can be read. -/
theorem Memory.look_takeByte (m : Memory) (a x : Nat) : (m.takeByte a).2.look x = m.look x := by
  unfold Memory.takeByte
  split <;> rfl

theorem Memory.look_takeBytes (m : Memory) (a n x : Nat) : (m.takeBytes a n).2.look x = m.look x := by
  induction n generalizing m a with
  | zero => rfl
  | succ n ih =>
    show ((m.takeByte a).2.takeBytes (a + 1) n).2.look x = m.look x
    rw [ih, m.look_takeByte]

/-- `m` is canonical and no byte of `l` goes to `x`: vacuous of a list without a write. -/
def Memory.Spares (m : Memory) (l : List MemOp) (x : Nat) : Prop :=
  ∀ a bytes, .write a bytes ∈ l → m.wf = true ∧ ¬ (a ≤ x ∧ x < a + bytes.length)

theorem Memory.look_perform (m : Memory) (o : MemOp) (x : Nat) (h : m.Spares [o] x) :
    (m.perform o).2.look x = m.look x := by
  cases o with
  | read a n => exact m.look_takeBytes a n x
  | write a l =>
    obtain ⟨hw, hx⟩ := h a l (List.mem_singleton_self _)
    exact (m.look_putBytes a x l hw).trans (if_neg hx)

theorem Memory.look_faulted (m : Memory) (o : MemOp) (x : Nat) (h : m.Spares [o] x) :
    (m.faulted o).look x = m.look x := by
  cases o with
  | read a n => rfl
  | write a l =>
    obtain ⟨hw, hx⟩ := h a l (List.mem_singleton_self _)
    exact (m.look_spoil a x l.length hw).trans (if_neg hx)

theorem Memory.Spares.head {m : Memory} {o : MemOp} {l : List MemOp} {x : Nat} (h : m.Spares (o :: l) x) :
    m.Spares [o] x :=
  fun a bytes hm => h a bytes (by rw [List.mem_singleton.mp hm]; exact List.mem_cons_self)

theorem Memory.Spares.tail {m : Memory} {o : MemOp} {l : List MemOp} {x : Nat} (h : m.Spares (o :: l) x) :
    (m.perform o).2.Spares l x :=
  fun a bytes hm =>
    have k := h a bytes (List.mem_cons_of_mem _ hm)
    ⟨m.wf_perform o k.1, k.2⟩

/-- Operations answered OK change no byte that none of their writes covers. -/
theorem Memory.look_performAll (m : Memory) (l : List MemOp) (x : Nat) (h : m.Spares l x) :
    (m.performAll l).2.look x = m.look x := by
  induction l generalizing m with
  | nil => rfl
  | cons o l ih => exact (ih _ h.tail).trans (m.look_perform o x h.head)

/-- So do operations of which one is answered FAULT. -/
theorem Memory.look_performFault (m : Memory) (l : List MemOp) (k x : Nat) (h : m.Spares l x) :
    (m.performFault l k).look x = m.look x := by
  induction l generalizing m k with
  | nil => rw [Memory.performFault]
  | cons o l ih =>
    cases l with
    | nil => rw [Memory.performFault]; exact m.look_faulted o x h
    | cons p l =>
      cases k with
      | zero => rw [Memory.performFault]; exact m.look_faulted o x h.head
      | succ k => rw [Memory.performFault]; exact (ih _ k h.tail).trans (m.look_perform o x h.head)

/-- And operations cut off by a reset. -/
theorem Memory.look_cutOff (m : Memory) (l : List MemOp) (x : Nat) (h : m.Spares l x) :
    (m.cutOff l).look x = m.look x :=
  Memory.look_performFault { m with fresh := m.fresh + 1 } l _ x h

/-- A read returns as many bytes as it asks for. -/
theorem Memory.length_takeBytes (m : Memory) (a n : Nat) : (m.takeBytes a n).1.length = n := by
  induction n generalizing m a with
  | zero => rfl
  | succ n ih =>
    show (((m.takeByte a).1 :: ((m.takeByte a).2.takeBytes (a + 1) n).1)).length = n + 1
    simp [ih]

/-- A read of definite bytes returns them and leaves memory as it is. -/
theorem Memory.takeBytes_of_look (m : Memory) (a : Nat) (l : List Byte)
    (h : ∀ i, i < l.length → m.look (a + i) = l[i]?) : m.takeBytes a l.length = (l, m) := by
  induction l generalizing a with
  | nil => rfl
  | cons v l ih =>
    have h0 := h 0 (by simp)
    simp only [Nat.add_zero, List.getElem?_cons_zero] at h0
    have h1 : m.takeByte a = (v, m) := by simp [Memory.takeByte, h0]
    have h2 : m.takeBytes (a + 1) l.length = (l, m) := by
      refine ih (a + 1) (fun i hi => ?_)
      have := h (i + 1) (by simpa using hi)
      rw [show a + 1 + i = a + (i + 1) by omega]
      simpa using this
    simp [Memory.takeBytes, h1, h2]

end Sys2Proof.Machine
end

