-- ==== Sys2Proof/Laws/PerInstr.lean ====
section
/-! SUPPORT. The statement made per command: which commands can be ill-formed, and by which operand. -/

-- One theorem at a time, for the reason Laws/State.lean gives.
set_option Elab.async false

namespace Sys2Proof.Laws.Shape

/-- A command is ill-formed exactly where it carries a frame of no bytes, or names an operation after an access's last
possible one. -/
def Statement (i : Instr) : Prop :=
  i.WellFormed = false ↔
    (∃ port, i = .frameReceived port []) ∨ ∃ after, maxRuns ≤ after ∧ i = .portAccessComplete (.fault after)

theorem frameReceived (port : Port) (frame : List Byte) : Statement (.frameReceived port frame) := by
  cases frame <;> simp [Statement, Instr.WellFormed]

theorem portRead : Statement .portRead := by simp [Statement, Instr.WellFormed]
theorem plainWrite : Statement .plainWrite := by simp [Statement, Instr.WellFormed]
theorem configWindowWrite : Statement .configWindowWrite := by simp [Statement, Instr.WellFormed]
theorem cabinetStatus : Statement .cabinetStatus := by simp [Statement, Instr.WellFormed]
theorem toBypass : Statement .toBypass := by simp [Statement, Instr.WellFormed]
theorem toOnline : Statement .toOnline := by simp [Statement, Instr.WellFormed]
theorem testStart : Statement .testStart := by simp [Statement, Instr.WellFormed]
theorem testStop : Statement .testStop := by simp [Statement, Instr.WellFormed]
theorem measurement : Statement .measurement := by simp [Statement, Instr.WellFormed]
theorem visitOpen : Statement .visitOpen := by simp [Statement, Instr.WellFormed]
theorem visitClose : Statement .visitClose := by simp [Statement, Instr.WellFormed]
theorem visitReplace : Statement .visitReplace := by simp [Statement, Instr.WellFormed]
theorem visitRetire : Statement .visitRetire := by simp [Statement, Instr.WellFormed]
theorem orderOffer : Statement .orderOffer := by simp [Statement, Instr.WellFormed]
theorem orderWithdraw : Statement .orderWithdraw := by simp [Statement, Instr.WellFormed]
theorem orderClear : Statement .orderClear := by simp [Statement, Instr.WellFormed]
theorem consumedJournalIndex : Statement .consumedJournalIndex := by simp [Statement, Instr.WellFormed]
theorem clockSet : Statement .clockSet := by simp [Statement, Instr.WellFormed]
theorem flushRequest : Statement .flushRequest := by simp [Statement, Instr.WellFormed]
theorem faultClear : Statement .faultClear := by simp [Statement, Instr.WellFormed]
theorem portAccessComplete (answer : AccessAnswer) : Statement (.portAccessComplete answer) := by
  cases answer <;> simp [Statement, Instr.WellFormed]

theorem internalGrant : Statement .internalGrant := by simp [Statement, Instr.WellFormed]
theorem applyReadComplete (answer : MemAnswer) : Statement (.applyReadComplete answer) := by simp [Statement, Instr.WellFormed]
theorem recallReadComplete (answer : MemAnswer) : Statement (.recallReadComplete answer) := by simp [Statement, Instr.WellFormed]
theorem writerWriteComplete (answer : MemAnswer) : Statement (.writerWriteComplete answer) := by simp [Statement, Instr.WellFormed]
theorem clockAdvance : Statement .clockAdvance := by simp [Statement, Instr.WellFormed]
theorem staleTimerExpiry (c : Cab) : Statement (.staleTimerExpiry c) := by simp [Statement, Instr.WellFormed]
theorem commandTimerExpiry (c : Cab) : Statement (.commandTimerExpiry c) := by simp [Statement, Instr.WellFormed]
theorem groupTestTimerExpiry (g : Grp) : Statement (.groupTestTimerExpiry g) := by simp [Statement, Instr.WellFormed]
theorem idleWarnTimerExpiry (t : Con) : Statement (.idleWarnTimerExpiry t) := by simp [Statement, Instr.WellFormed]
theorem idleEndTimerExpiry (t : Con) : Statement (.idleEndTimerExpiry t) := by simp [Statement, Instr.WellFormed]
theorem durationTimerExpiry (t : Con) : Statement (.durationTimerExpiry t) := by simp [Statement, Instr.WellFormed]
theorem flushTimerExpiry : Statement .flushTimerExpiry := by simp [Statement, Instr.WellFormed]
theorem keyToLocked : Statement .keyToLocked := by simp [Statement, Instr.WellFormed]
theorem keyToService : Statement .keyToService := by simp [Statement, Instr.WellFormed]
theorem reset : Statement .reset := by simp [Statement, Instr.WellFormed]
theorem resetRelease : Statement .resetRelease := by simp [Statement, Instr.WellFormed]
theorem pfwAssert : Statement .pfwAssert := by simp [Statement, Instr.WellFormed]
theorem pfwDeassert : Statement .pfwDeassert := by simp [Statement, Instr.WellFormed]

end Sys2Proof.Laws.Shape
end

