-- ==== Sys2Proof/Laws/Placed.lean ====
section
/-! SUPPORT. Why every operation that the part issues lies within record memory: a block that passes validation is
placed, and so are the records, the recall reads, the loader's re-reads and the runs of a plain write. -/

-- One theorem at a time, for the reason Laws/State.lean gives.
set_option Elab.async false

namespace Sys2Proof.Machine

theorem opInRange_iff (a n : Nat) : opInRange a n = true ↔ 1 ≤ n ∧ n ≤ 256 ∧ a + n ≤ 0x100000 := by
  unfold opInRange Config.memorySize
  exact decide_eq_true_iff

/-! ## A valid block is placed (R51, R52) -/

theorem validate_holds (l : List Byte) (h : validate l = none) : ∀ k ∈ validationChecks l, k.1 = true := by
  unfold validate at h
  rw [Option.map_eq_none_iff, List.find?_eq_none] at h
  intro k hk
  have := h k hk
  simpa using this

theorem base_parseBlock (l : List Byte) (z : Area) : (parseBlock l).base z = (rawArea l z).1 := by
  simp [Block.base, parseBlock, rawArea]

theorem parseBlock_placed (l : List Byte) (h : validate l = none) : (parseBlock l).Placed := by
  have area : ∀ z : Area, (rawArea l z).placed = true ∧
      (rawArea l z).clear (windowRange :: (allAreas.take z.index.val).map (rawArea l)) = true := by
    intro z
    have hm : (((rawArea l z).placed && (rawArea l z).clear
        (windowRange :: (allAreas.take z.index.val).map (rawArea l)), 0x10 + 4 * z.index.val) : Check) ∈
        validationChecks l := by
      unfold validationChecks
      simp only [List.mem_append]
      refine Or.inl (Or.inl (Or.inl (Or.inl (Or.inr ?_))))
      unfold areaChecks
      exact List.mem_map.mpr ⟨z, mem_allAreas z, rfl⟩
    simpa using validate_holds l h _ hm
  have hr : ∀ z, ((parseBlock l).base z, z.size) = rawArea l z := fun z => by rw [base_parseBlock]; rfl
  constructor
  · intro z _
    have := (area z).1
    rw [base_parseBlock]
    exact (of_decide_eq_true this).2.2
  · have hb : (parseBlock l).ranges = windowRange :: allAreas.map (rawArea l) := by
      simp only [Block.ranges, hr]
    have clear : ∀ z, ∀ y ∈ windowRange :: (allAreas.take z.index.val).map (rawArea l),
        (rawArea l z).overlaps y = false := by
      intro z y hy
      have := List.all_eq_true.mp (area z).2 y hy
      simpa using this
    have w : ∀ z, windowRange.overlaps (rawArea l z) = false := fun z => by
      rw [Range.overlaps_comm]; exact clear z _ (by simp)
    have p : ∀ y z : Area, y ∈ allAreas.take z.index.val → (rawArea l y).overlaps (rawArea l z) = false := fun y z hy => by
      rw [Range.overlaps_comm]; exact clear z _ (List.mem_cons_of_mem _ (List.mem_map_of_mem hy))
    rw [hb, List.pairwise_cons]
    refine ⟨fun y hy => ?_, ?_⟩
    · obtain ⟨z, _, rfl⟩ := List.mem_map.mp hy
      exact w z
    · rw [List.pairwise_map]
      have : allAreas.Pairwise fun y z => y ∈ allAreas.take z.index.val := by decide
      exact this.imp fun {y z} hy => p y z hy

/-! ## The part's own records (R162) -/

theorem length_le32 (x : Word32) : (le32 x).length = 4 := rfl
theorem length_le16 (x : Word16) : (le16 x).length = 2 := rfl

theorem length_withCheck (l : List Byte) : (withCheck l).length = l.length + 1 := by simp [withCheck]

theorem length_zeros (n : Nat) : (zeros n).length = n := by simp [zeros]

theorem Tables.length_spentBytes (u : Tables) (h : u.spent.length ≤ spentLimit) : u.spentBytes.length = 64 := by
  have hs : (u.spent.map le32).flatten.length = 4 * u.spent.length := by
    induction u.spent with
    | nil => rfl
    | cons x l ih => simp [ih, length_le32]; omega
  simp only [Tables.spentBytes, List.length_append, hs, length_zeros]
  simp only [spentLimit] at h
  omega

/-- The length of a part record (Table 2.12(14)). -/
theorem Tables.length_recordBytes (u : Tables) (r : RecId) (h : u.spent.length ≤ spentLimit) :
    (u.recordBytes r).length =
      match r with
      | .header | .spentList | .visit _ => 64
      | .cabinet _ | .journalHeader | .string _ => 32
      | .group _ | .order _ => 16 := by
  cases r <;> simp only [Tables.recordBytes]
  case spentList => exact u.length_spentBytes h
  case journalHeader =>
    unfold Tables.journalHeaderBytes
    split <;> simp [length_le32, length_le16, length_zeros]
  case visit t =>
    unfold Tables.visitBytes
    cases h : (u.vis t).lastResult <;>
      simp [length_withCheck, length_le32, length_zeros, VisitResult.bytes, h]
  all_goals
    simp [Tables.headerBytes, Tables.cabinetBytes, Tables.groupBytes, Tables.orderBytes, Tables.stringBytes,
      length_withCheck, length_le32, length_le16, length_zeros]

theorem Tables.length_halfBytes (u : Tables) (c : Cab) : (u.halfBytes c).length = 8 := by
  simp [Tables.halfBytes, length_withCheck, length_zeros]

theorem JEntry.length_bytes (e : JEntry) : e.bytes.length = 16 := by simp [JEntry.bytes, length_le32]

theorem Tables.base_active (u : Tables) (b : Block) (h : u.active = some b) (z : Area) : u.base z = b.base z := by
  simp [Tables.base, Tables.limit, h]

/-- Every write of the record writer lies within record memory. -/
theorem Tables.jobWrite_inRange (u : Tables) (j : WriterJob) (b : Block) (h : u.active = some b) (hp : b.Placed)
    (hs : u.spent.length ≤ spentLimit) : opInRange (u.jobWrite j).1 (u.jobWrite j).2.length = true := by
  have st := hp.1 .state (mem_allAreas _)
  have cm := hp.1 .cabcmd (mem_allAreas _)
  simp only [Area.size, Config.memorySize] at st cm
  have ring : ∀ p : Byte, ringOffset p + 16 ≤ 0x2800 := fun p => by
    simp only [ringOffset]
    have := p.isLt
    omega
  cases j with
  | record r =>
    have hl := u.length_recordBytes r hs
    simp only [Tables.jobWrite, opInRange_iff, hl, u.base_active b h]
    cases r <;> simp only [RecId.offset] <;> omega
  | half c =>
    simp only [Tables.jobWrite, opInRange_iff, u.length_halfBytes, u.base_active b h]
    omega
  | pending e =>
    have := ring e.pos
    simp only [Tables.jobWrite, opInRange_iff, e.entry.length_bytes, u.base_active b h]
    omega
  | span e =>
    have := ring e.pos
    simp only [Tables.jobWrite, opInRange_iff, e.entry.length_bytes, u.base_active b h]
    omega
  | haltedHeader =>
    have hl := u.length_recordBytes .header hs
    simp only [Tables.recordBytes] at hl
    simp only [Tables.jobWrite, opInRange_iff, hl, u.base_active b h]
    omega

/-! ## Recall's and the loader's reads (Table 10.1(1), R47, R48) -/

theorem Tables.recallPlace_inRange (u : Tables) (r : RecallRead) (h : u.Placed) :
    opInRange (u.recallPlace r).1 (u.recallPlace r).2 = true := by
  have area : ∀ z : Area, u.base z + z.size ≤ Config.memorySize := by
    intro z
    cases hb : u.active with
    | none => cases z <;> simp [Tables.base, Tables.limit, hb, Area.size, Config.memorySize]
    | some b => rw [u.base_active b hb]; exact (h b hb).1 z (mem_allAreas z)
  have st := area .state
  have cm := area .cabcmd
  have wo := area .workord
  have ct := area .ctrl
  simp only [Area.size, Config.memorySize] at st cm wo ct
  cases r <;> simp only [Tables.recallPlace, opInRange_iff] <;> omega

theorem Tables.rereads_inRange (u : Tables) (l : List Byte) : ∀ r ∈ u.rereads l, opInRange r.addr readSize = true := by
  have moved : ∀ (z : Area) (n : Nat), u.movedBase l z = some n → n + z.size ≤ Config.memorySize := by
    intro z n hn
    unfold Tables.movedBase at hn
    dsimp only at hn
    split at hn
    · next hc =>
      cases hn
      exact (of_decide_eq_true (Bool.and_eq_true_iff.mp hc).2).2.2
    · cases hn
  intro r hr
  unfold Tables.rereads at hr
  dsimp only at hr
  rcases List.mem_append.mp hr with hr | hr
  · split at hr
    · next n hn =>
      have := moved .cabcmd n hn
      simp only [Area.size, Config.memorySize] at this
      simp only [List.mem_cons, List.not_mem_nil, or_false] at hr
      rcases hr with rfl | rfl <;>
        simp only [LoaderRead.addr, readSize, opInRange_iff] <;> simp <;> omega
    · simp at hr
  · split at hr
    · next n hn =>
      have := moved .workord n hn
      simp only [Area.size, Config.memorySize] at this
      simp only [List.mem_cons, List.not_mem_nil, or_false] at hr
      subst hr
      simp only [LoaderRead.addr, readSize, opInRange_iff]
      omega
    · simp at hr

theorem blockReads_inRange : ∀ r ∈ blockReads, opInRange r.addr readSize = true := by decide

/-! ## Port accesses (R24, R33) -/

theorem runsFrom_inRange (l : List (Bool × Byte)) : ∀ (addr : Nat) (run : List Byte), run.length ≤ addr →
    run.length + l.length ≤ 256 → addr + l.length ≤ Config.memorySize →
    (runsFrom addr run l).all MemOp.inRange = true := by
  have flush : ∀ (addr : Nat) (run : List Byte), run.length ≤ addr → run.length ≤ 256 → addr ≤ Config.memorySize →
      (if run.isEmpty then [] else [MemOp.write (addr - run.length) run.reverse]).all MemOp.inRange = true := by
    intro addr run h1 h2 h3
    cases run with
    | nil => rfl
    | cons x r =>
      simp only [List.length_cons] at h1 h2
      simp only [List.isEmpty_cons, Bool.false_eq_true, if_false, List.all_cons, List.all_nil, Bool.and_true,
        MemOp.inRange, MemOp.addr, MemOp.len, List.length_reverse, List.length_cons, opInRange_iff]
      simp only [Config.memorySize] at h3
      omega
  induction l with
  | nil =>
    intro addr run h1 h2 h3
    exact flush addr run h1 (by simpa using h2) (by simpa using h3)
  | cons x l ih =>
    intro addr run h1 h2 h3
    simp only [List.length_cons] at h2 h3
    obtain ⟨b, v⟩ := x
    cases b
    · simp only [runsFrom, List.all_append, Bool.and_eq_true]
      exact ⟨flush addr run h1 (by omega) (by omega), ih _ _ (by simp) (by simp; omega) (by omega)⟩
    · simp only [runsFrom]
      exact ih _ _ (by simp; omega) (by simp; omega) (by omega)

/-- Every operation of a permitted access lies within record memory. -/
theorem Tables.decideAccess_inRange (u v : Tables) (a : Access) (p : Passed) (hs : a.Shaped)
    (h : u.decideAccess a = (v, .ok p)) : p.ops.all MemOp.inRange = true := by
  obtain ⟨h1, h2, h3⟩ := hs
  unfold Tables.decideAccess at h
  split at h
  · cases h
  · next hd =>
    have hr : a.addr + a.len ≤ Config.memorySize := by
      unfold Tables.decodeChecks at hd
      rw [firstDenial_cons] at hd
      split at hd
      · next hi => simpa [Access.inRange] using hi
      · cases hd
    have rd : ∀ l, (wholeRead a l).ops.all MemOp.inRange = true := fun l => by
      simp only [Config.memorySize] at hr; simp [wholeRead, MemOp.inRange, MemOp.addr, MemOp.len, opInRange_iff]; omega
    split at h
    · have hp := (Prod.mk.inj h).2
      unfold Tables.decidePlain at hp
      dsimp only at hp
      split at hp
      · cases hp
      · split at hp
        · cases hp; exact rd _
        · next hk =>
          cases hp
          rw [hk] at h3
          dsimp only at h3 ⊢
          have hl : ((u.permittedBytes a).zip a.data).length = a.len := by simp [Tables.permittedBytes, h3]
          exact runsFrom_inRange _ _ _ (by simp) (by rw [hl]; simpa using h2) (by rw [hl]; exact hr)
    · split at h
      · have hp := (Prod.mk.inj h).2
        split at hp
        · cases hp; exact rd _
        · cases hp
      · next hk =>
        rw [hk] at h3
        dsimp only at h3
        have wr : ∀ t, (wholeWrite a t).ops.all MemOp.inRange = true := fun t => by
          simp only [Config.memorySize] at hr; simp [wholeWrite, MemOp.inRange, MemOp.addr, MemOp.len, opInRange_iff]; omega
        unfold Tables.decideTypedWrite at h
        split at h
        · cases h
        · split at h
          · cases h
          · split at h
            · cases h
            · split at h
              · cases h
              · cases h; exact wr _

/-! ## The active configuration through an apply and through recall -/

theorem Tables.active_rejectApply (u : Tables) (a : Apply) (r : ApplyResult) (o : Nat) :
    (u.rejectApply a r o).active = u.active ∧ (u.rejectApply a r o).apply = none ∧
      (u.rejectApply a r o).spent = u.spent := by
  unfold Tables.rejectApply Tables.setApplyResult
  dsimp only
  refine ⟨?_, ?_, ?_⟩ <;> simp

theorem Tables.active_applyBlock (u : Tables) (a : Apply) (b : Block) :
    (u.applyBlock a b).active = some b ∧ (u.applyBlock a b).apply = none := by
  unfold Tables.applyBlock Tables.setApplyResult
  dsimp only
  generalize hv : Tables.markUrgent _ _ = v
  have hva : v.active = some b ∧ v.apply = none := by rw [← hv]; constructor <;> simp
  have k := (((((Keeps.refl v).journal .configApplied .notice 0 ApplyResult.applied.code
    (b.generation.zeroExtend 32)).handMoved a).enterCabs u.active).reevalAll).foldl (f := fun u g => u.applyStop g)
    (l := allGroups) (fun _ x k => k.applyStop x) |>.enterStrings u.active b
  revert k
  generalize Tables.enterStrings _ _ _ = w
  intro k
  have h1 : (if stateMoved u.active b = true then w.moveState else w).active = some b ∧
      (if stateMoved u.active b = true then w.moveState else w).apply = none := by
    split
    · have m := (Keeps.refl w).markAll
      unfold Tables.moveState
      revert m
      generalize w.markAll = x
      intro m
      exact ⟨m.active.trans (k.active.trans hva.1), m.applying.trans (k.applying.trans hva.2)⟩
    · exact ⟨k.active.trans hva.1, k.applying.trans hva.2⟩
  split <;> exact h1

end Sys2Proof.Machine
end

