-- ==== Sys2Proof/Laws/Sound.lean ====
section
/-! SUPPORT. The writer's lists and the spent list stay sound through applies, recall, takes, faults and the writer's own
completions: one lemma for each operation that a command ends in. -/

-- One theorem at a time, for the reason Laws/State.lean gives.
set_option Elab.async false

namespace Sys2Proof.Machine

/-! ## Applies (R47 to R60) -/

theorem Tables.sound_moveState (u : Tables) (h : u.Sound) : u.moveState.Sound := by
  have hm := (Keeps.refl u).markAll.sound h
  unfold Tables.moveState
  revert hm
  generalize u.markAll = v
  exact fun hm => hm

theorem Tables.sound_setApplyResult (u : Tables) (r : ApplyResult) (o : Nat) (g : Word16) (h : u.Sound) :
    (u.setApplyResult r o g).Sound := by
  unfold Tables.setApplyResult
  exact ((Keeps.refl _).markUrgent .header).sound h

theorem Tables.sound_applyBlock (u : Tables) (a : Apply) (b : Block) (h : u.Sound) : (u.applyBlock a b).Sound := by
  unfold Tables.applyBlock
  dsimp only
  have h1 := Tables.sound_setApplyResult { u with apply := none, active := some b, lock := u.lock || b.lock } .applied
    0xFFFF b.generation h
  revert h1
  generalize Tables.setApplyResult _ _ _ _ = v
  intro h1
  have h2 := ((((((Keeps.refl v).journal .configApplied .notice 0 ApplyResult.applied.code
    (b.generation.zeroExtend 32)).handMoved a).enterCabs u.active).reevalAll).foldl (f := fun u g => u.applyStop g)
    (l := allGroups) (fun _ x k => k.applyStop x) |>.enterStrings u.active b).sound h1
  revert h2
  generalize Tables.enterStrings _ _ _ = w
  intro h2
  have h3 : (if stateMoved u.active b = true then w.moveState else w).Sound := by
    split
    · exact w.sound_moveState h2
    · exact h2
  split <;> exact h3

theorem Tables.sound_rejectApply (u : Tables) (a : Apply) (r : ApplyResult) (o : Nat) (h : u.Sound) :
    (u.rejectApply a r o).Sound := by
  unfold Tables.rejectApply
  dsimp only
  exact ((Keeps.refl _).journal _ _ _ _ _).sound (Tables.sound_setApplyResult _ _ _ _ h)

theorem Tables.sound_loaderRead (u : Tables) (r : LoaderRead) (l : List Byte) (h : u.Sound) :
    (u.loaderRead r l).Sound := by
  unfold Tables.loaderRead
  split
  · exact h
  · next a ha =>
    dsimp only
    have h1 : (if r = .block 0 then u.copyGeneration l else u).Sound := by split <;> exact h
    revert h1
    generalize (if r = .block 0 then u.copyGeneration l else u) = v
    intro h1
    split
    · unfold Tables.endReadPhase
      split
      · exact v.sound_rejectApply _ _ _ h1
      · exact v.sound_rejectApply _ _ _ h1
      · exact v.sound_applyBlock _ _ h1
    · exact h1

theorem Tables.sound_loaderFault (u : Tables) (r : LoaderRead) (h : u.Sound) : (u.loaderFault r).Sound := by
  unfold Tables.loaderFault
  split
  · exact h
  · exact u.sound_rejectApply _ _ _ h

/-! ## Recall (R173 to R180) -/

theorem recalledHead_unconsumed (l : Option (List Byte)) (k : JHead) (h : recalledHead l = some k) :
    k.unconsumed ≤ ringSize := by
  unfold recalledHead at h
  split at h
  · split at h
    · next hc => cases h; exact hc.2
    · cases h
  · cases h

theorem JHead.consumedBy_unconsumed (k : JHead) (l : Option (List Byte)) :
    (k.consumedBy l).unconsumed ≤ k.unconsumed := by
  unfold JHead.consumedBy
  split
  · dsimp only; omega
  · exact le_refl _

theorem Tables.sound_recallFinish (u : Tables) (g : Got) (r : Bool) (h : u.Sound) : (u.recallFinish g r).Sound := by
  unfold Tables.recallFinish
  dsimp only
  have key : ∀ v : Tables, v.Sound → (v.recallStep7.recallStep8 r).Sound := by
    intro v hv
    unfold Tables.recallStep8
    dsimp only
    have hm := ((Keeps.refl v).recallStep7.journal .start .notice 0 (bit r)
      (v.recallStep7.writer.headerGen.zeroExtend 32)).markAll.sound hv
    revert hm
    generalize Tables.markAll _ = w
    exact fun hm => hm
  apply key
  split
  · next k hk =>
    refine ⟨Tables.sound_establish _ _ _ h.1 ?_ (recalledCopy_places _ _), ?_⟩
    · exact (k.consumedBy_unconsumed _).trans (recalledHead_unconsumed _ k hk)
    · rw [(Tables.only_establish _ _ _).spent]
      exact h.2
  · refine ⟨Tables.sound_establish _ _ _ h.1 (by decide) (by simp [lostHead]), ?_⟩
    rw [(Tables.only_establish _ _ _).spent]
    exact h.2

theorem Tables.sound_recallStep1 (u : Tables) (g : Got) (h : u.Sound) : (u.recallStep1 g).Sound := by
  unfold Tables.recallStep1
  split
  · next c hc =>
    unfold Tables.recallValid
    dsimp only
    have h1 : (({ u with active := some c }).setRecallResult .applied 0xFFFF).Sound := h
    revert h1
    generalize Tables.setRecallResult _ _ _ = v
    intro h1
    have h2 : (v.setWriter { v.writer with headerGen := c.generation }).Sound := h1
    revert h2
    generalize v.setWriter { v.writer with headerGen := c.generation } = w
    intro h2
    have h3 := (((Keeps.refl w).enterCabs none).enterStrings none c).sound h2
    revert h3
    generalize Tables.enterStrings _ _ _ = x
    exact fun h3 => h3
  · exact h

theorem Tables.sound_recallAfter (u : Tables) (r : RecallRead) (k : Recall) (h : u.Sound) :
    (u.recallAfter r k).Sound := by
  unfold Tables.recallAfter
  split
  · split
    · exact u.sound_recallStep1 _ h
    · exact h
  · unfold Tables.recallStep2
    split <;> exact h
  · split
    · unfold Tables.recallStep3
      dsimp only
      have h1 := (Keeps.foldl (l := allStrings) (fun _ x h => h.keepMark x)
        (Keeps.foldl (l := allStrings) (fun _ x h => h.recallString k.got x) (Keeps.refl u)).recallTests).sound h
      revert h1
      generalize List.foldl _ _ _ = v
      exact fun h1 => h1
    · exact h
  · split
    · unfold Tables.recallStep4
      dsimp only
      have h1 := (Keeps.foldl (l := allStrings) (fun _ x h => h.recallIssue x)
        (Keeps.foldl (l := allCabs) (fun _ x h => h.recallSlot k.got x) (Keeps.refl u))).sound h
      revert h1
      generalize List.foldl _ _ _ = v
      exact fun h1 => h1
    · exact h
  · exact h
  · exact h
  · exact h
  · unfold Tables.recallStep5
    dsimp only
    have h1 := (Keeps.foldl (l := allConsoles) (fun _ x h => h.recallVisit (Got.at k.got 1) (Got.at k.got 3) x)
      (Keeps.foldl (l := allSlots) (fun _ x h => h.recallOrder (Got.at k.got 0) (Got.at k.got 1) x)
        ((Keeps.refl u).recallSpent (Got.at k.got 2)))).sound h
    revert h1
    generalize List.foldl _ _ _ = v
    exact fun h1 => h1
  · exact h
  · unfold Tables.recallJournal
    split
    · exact ((Keeps.refl u).markIf _ _ _).sound h
    · exact u.sound_recallFinish _ _ h
  · split
    · exact u.sound_recallFinish _ _ h
    · exact h

theorem Tables.sound_recallRead (u : Tables) (r : RecallRead) (l : Option (List Byte)) (h : u.Sound) :
    (u.recallRead r l).Sound := by
  unfold Tables.recallRead
  split
  · exact h
  · next k hk =>
    dsimp only
    apply Tables.sound_recallAfter
    split <;> exact h

/-! ## Takes and faults of port accesses -/

theorem Tables.sound_takeAccess (u : Tables) (a : Access) (t : Take) (h : u.Sound) : (u.takeAccess a t).Sound := by
  cases t <;> unfold Tables.takeAccess <;> dsimp only
  · exact h
  · unfold Tables.takeConfig
    dsimp only
    split <;> exact h
  · exact ((Keeps.refl u).takeStatus _ _).sound h
  · exact ((Keeps.refl u).takeFloor _ _ _ _).sound h
  · exact ((Keeps.refl u).takeMeasurement _ _).sound h
  · exact ((Keeps.refl u).takeOpen _ _).sound h
  · exact ((Keeps.refl u).takeClose _ _).sound h
  · next t q n k => exact (((Keeps.refl u).requestTaken t q).takeReplace n k).sound h
  · next t q n => exact (((Keeps.refl u).requestTaken t q).takeRetire n).sound h
  · exact ((Keeps.refl u).takeOffer _ _).sound h
  · exact ((Keeps.refl u).takeWithdraw _).sound h
  · exact ((Keeps.refl u).takeClear _).sound h
  · unfold Tables.takeConsumed
    dsimp only
    exact (((Keeps.refl _).markUrgent .journalHeader).evalAttn.tryLost).sound ⟨Writer.sound_consume _ _ h.1, h.2⟩
  · unfold Tables.takeClockSet
    dsimp only
    exact (((Keeps.refl _).markUrgent .header).journal _ _ _ _ _).sound h
  · exact (Keeps.refl u).flushNow.sound h
  · unfold Tables.takeFaultClear
    split
    · exact ((Keeps.refl _).markUrgent .header).evalAttn.sound h
    · exact h

theorem Tables.sound_faultAccess (u : Tables) (a : Access) (t : Take) (h : u.Sound) : (u.faultAccess a t).Sound := by
  cases t <;> unfold Tables.faultAccess <;> dsimp only
  case floor c q k x e => exact ((Keeps.refl u).undoFloor c q x).sound h
  case visitOpen t q n v => exact (((Keeps.refl u).undoOpen t n v).setResult t _).sound h
  case visitClose t q => exact ((Keeps.refl u).setResult t _).sound h
  case replace t q n k => exact ((Keeps.refl u).setResult t _).sound h
  case retire t q n => exact ((Keeps.refl u).setResult t _).sound h
  all_goals exact h

theorem Tables.sound_haltIfWaiting (u : Tables) (h : u.Sound) : u.haltIfWaiting.Sound := by
  unfold Tables.haltIfWaiting
  split <;> exact h

/-! ## The writer's grants and completions (R164, R166, R182) -/

theorem Writer.sound_granted (w : Writer) (j : WriterJob) (h : w.Sound) : (w.granted j).Sound := by
  cases j <;> unfold Writer.granted <;> dsimp only
  · exact Writer.sound_unplace _ _ h
  all_goals exact h

theorem Tables.sound_writeDone (u : Tables) (j : WriterJob) (h : u.Sound) : (u.writeDone j).Sound := by
  have hc : u.clearRetry.Sound := h
  unfold Tables.writeDone
  cases j <;> dsimp only
  · exact hc
  · exact hc
  · exact (Keeps.refl _).tryLost.sound ⟨Writer.sound_dropPending _ _ hc.1, hc.2⟩
  · exact (Keeps.refl _).tryLost.sound hc
  · exact hc

theorem Tables.sound_barRecord (u : Tables) (r : RecId) (h : u.Sound) : (u.barRecord r).Sound := by
  unfold Tables.barRecord
  split
  · exact ⟨u.writer.sound_bar r h.1, h.2⟩
  · exact h

theorem Tables.sound_barHalf (u : Tables) (c : Cab) (h : u.Sound) : (u.barHalf c).Sound := by
  unfold Tables.barHalf
  split <;> exact h

theorem Tables.sound_writeGivenUp (u : Tables) (j : WriterJob) (n : Nat) (h : u.Sound) :
    (u.writeGivenUp j n).Sound := by
  have hc : u.clearRetry.Sound := h
  unfold Tables.writeGivenUp
  cases j <;> dsimp only
  · next r =>
    have hb := Tables.sound_barRecord _ r hc
    unfold Tables.leaveDirty Tables.journalWriterFault
    split
    · exact ((Keeps.refl _).setLatch.journal _ _ _ _ _).sound hb
    · exact ((Keeps.refl _).setLatch.journal _ _ _ _ _ |>.markLazy _).sound hb
  · next c =>
    have hb := Tables.sound_barHalf _ c hc
    have hf := ((Keeps.refl (Tables.barHalf _ c)).setLatch.journal .writerFault .warning (byteOf c.val) 0x09
      (BitVec.ofNat 32 n)).sound hb
    unfold Tables.leaveHalfDirty Tables.journalWriterFault
    split
    · exact hf
    · exact ((Keeps.refl _).markLazy _).sound ⟨Writer.sound_setHalf _ c hf.1, hf.2⟩
  · exact ((Keeps.refl _).setLatch.tryLost).sound ⟨Writer.sound_dropPending _ _ hc.1, hc.2⟩
  · exact ((Keeps.refl _).setLatch.tryLost).sound hc
  · exact ((Keeps.refl u.clearRetry).setLatch).sound hc

theorem Tables.sound_writeFault (u : Tables) (j : WriterJob) (b : Bool) (n : Nat) (h : u.Sound) :
    (u.writeFault j b n).Sound := by
  unfold Tables.writeFault
  split
  · exact u.sound_writeGivenUp j n h
  · exact h

end Sys2Proof.Machine
end

