-- ==== Sys2Proof/Tests/Slice0.lean ====
section
/-! SUPPORT. Tests: the checks of WellFormed with ill-formed terms, and for every statement with hypotheses a concrete
state and operands that meet them, at the boundaries of its clauses. -/

-- One theorem at a time: so many small proofs, elaborated side by side, ask for more threads than the check allows.
set_option Elab.async false

namespace Sys2Proof.Tests

open Sys2Proof Sys2Proof.Machine

/-! ## WellFormed -/

theorem test_frame_without_bytes_is_ill_formed : (Instr.frameReceived .sup []).WellFormed = false := by decide
theorem test_frame_of_one_byte_is_well_formed : (Instr.frameReceived .sup [0]).WellFormed = true := by decide
theorem test_fault_after_128_operations_is_ill_formed : (Instr.portAccessComplete (.fault 128)).WellFormed = false := by
  decide
theorem test_fault_after_127_operations_is_well_formed : (Instr.portAccessComplete (.fault 127)).WellFormed = true := by
  decide

/-! ## A small floor -/

/-- Three cabinets of group 0 with one string each, one plain region, the areas from 1000h up. -/
def demoBlock : Block where
  generation := 1
  lock := false
  attention := 2
  bases := Tab.gen fun k => [0x1000, 0x1400, 0x2000, 0x1600, 0x1700, 0x1800, 0x4000].getD k.val 0
  regions := Tab.gen fun n => if n = 0 then ⟨0x8000, 1, .both, .read, .none⟩ else ⟨0, 0, .none, .none, .none⟩
  staleTime := 30
  commandTime := 60
  testMinutes := 240
  idleWarn := 900
  idleEnd := 1800
  flushTime := 60
  deepThreshold := 1750
  passCapacity := 80
  cyclesWatch := 300
  cyclesDue := 500
  thermalWatch := 26280
  thermalDue := 35040
  deepWatch := 5
  deepDue := 10
  capacityWatch := 85
  capacityDue := 75
  groups := Tab.gen fun _ => ⟨0, 20, 1⟩
  cabs := Tab.gen fun c =>
    if c.val < 3 then ⟨true, 0, 250, 1, Tab.gen fun p => if p = 0 then some ⟨c.val, by omega⟩ else none⟩ else .absent
  capacities := Tab.fill 128 150

def demoCab : CabEntry :=
  { CabEntry.reset with
    fresh := true, staleTimer := some 0, report := some ⟨.onlineInverter, .ok⟩, usableCount := 1, supporting := true
    machine := .normal, lastSeq := some 4 }

def demoVisit : Visit :=
  { Visit.reset with
    state := .opened, order := 7, badge := 5, scope := 1, perms := 0x0F, warnTimer := some 0, endTimer := some 0
    durTimer := some 0 }

def demoEntry (q : Nat) : CopyEntry :=
  ⟨byteOf q, { seq := BitVec.ofNat 32 q, time := 0, kind := 1, severity := 1, subject := 0, detail := 0, value := 0 },
    false⟩

def demoTables : Tables :=
  { Tables.reset .service with
    mode := .running
    active := some demoBlock
    clock := 100
    synced := true
    advancing := true
    cabs := Tab.gen fun c => if c.val < 3 then demoCab else .reset
    groups := Tab.gen fun g => if g = 0 then { GroupEntry.reset with state := .normal, supCount := 3 } else .reset
    strings := Tab.gen fun s =>
      if s.val < 3 then { StringEntry.reset with rated := 150, age := .healthy, usable := true, lastSeq := some 9 }
      else .reset
    visits := Tab.gen fun t => if t = 0 then demoVisit else .reset
    orders := Tab.gen fun n =>
      if n = 0 then { Order.reset with state := .inUse, number := 7, bound := some 0 }
      else if n = 1 then
        { Order.reset with
          state := .offered, number := 9, scope := 2, perms := 1, windowStart := 50, windowEnd := 200, maxMinutes := 60 }
      else .reset
    writer :=
      { Writer.reset with
        head := some { nextSeq := 10, nextPos := 10, unconsumed := 2, lost := false }
        copy := [demoEntry 8, demoEntry 9], flushTimer := some 0 } }

def demo : State := { State.reset with keyLine := .service, tables := demoTables }

def write (p : Port) (tag : Byte) (addr : Nat) (data : List Byte) : Access :=
  { port := p, kind := .write, txn := 3, tag, addr, len := data.length, data }

def read (p : Port) (tag : Byte) (addr len : Nat) : Access := { port := p, kind := .read, txn := 3, tag, addr, len, data := [] }

/-- `s` with an access alone in its queue. -/
def State.asked (s : State) (a : Access) : State := { s with queues := Queues.reset.put a.port [a] }

def asked (a : Access) : State := State.asked demo a

/-- `s` with an access in flight at the head of its queue. -/
def State.flying (s : State) (f : InFlight) : State := { State.asked s f.acc with grant := some (.port f) }

def withTables (u : Tables) : State := { demo with tables := u }

/-- A record of `n` bytes with its check byte. -/
def record (n : Nat) (l : List Byte) : List Byte := withCheck (l ++ zeros (n - 1 - l.length))

theorem test_demo_block_is_placed : demoBlock.Placed := by decide +kernel

theorem test_demo_keeps_the_invariants :
    demo.mem.wf = true ∧ demo.QueuesOk ∧ demo.tables.Sound ∧ (nextOf (step demo)).isSome = true := by
  refine ⟨by decide +kernel, ?_, by decide +kernel, by decide +kernel⟩
  intro p
  cases p <;> exact ⟨by decide +kernel, by decide +kernel⟩

/-! ## Frames, queues and the arbiter -/

theorem test_frame_hypotheses :
    demo.tables.mode = .running ∧ (demo.queues.of .svc).length < 4 ∧
      (List.replicate 256 (0 : Byte)).length = frameLen 0 ∧ ([] : List Byte).length = 0 := by decide +kernel

theorem test_frame_joins_its_queue :
    (nextOf (exec (.frameReceived .cab (withCrc ([2, 5, 1] ++ [0, 0x10, 0] ++ [1, 0xAA]))) demo)).map
      (fun s => s.queues.cab) = some [{ write .cab 1 0x1000 [0xAA] with txn := 5 }] := by decide +kernel

/-- A full queue, and each mode that holds the links. -/
theorem test_held_links :
    4 ≤ ((State.asked demo (read .sup 0 0 1)).queues.put .sup (List.replicate 4 (read .sup 0 0 1))).sup.length ∧
      State.reset.tables.mode = .inReset ∧ ∀ m : RunMode, m ∈ [RunMode.draining, .halting, .halted] →
        (withTables { demoTables with mode := m }).linkHeld .svc = true := by decide +kernel

/-- Each check of R4, failed alone. -/
theorem test_failing_frames :
    let body : List Byte := [1, 0, 0, 0, 0, 0, 1]
    7 ≤ body.length ∧ ([0, 0] : List Byte).length = 2 ∧ [0, 0] ≠ le16 (crc body) ∧
      byteAt [3, 0, 0, 0, 0, 0, 1] 0 ≠ 1 ∧ byteAt [3, 0, 0, 0, 0, 0, 1] 0 ≠ 2 ∧
      ([1, 0, 0, 0, 0, 0, 1, 9] : List Byte).length - 7 ≠ 0 ∧
      ([2, 0, 0, 0, 0, 0, 2, 9] : List Byte).length - 7 ≠ frameLen 2 := by decide +kernel

theorem test_activity_hypotheses :
    (demoTables.vis 0).state.isOpen = true ∧ (demoTables.vis 1).state.isOpen = false ∧ demoTables.nomap = false ∧
      4 ≤ (4 : Byte).toNat ∧
      ((demoTables.setVis 3 { demoVisit with state := .warned }).vis 3).state = .warned := by decide +kernel

/-- Each of the four places of the search is the first eligible somewhere, and none is in an empty part. -/
theorem test_arbiter_places :
    (∀ k : Fin 4, ∃ r : Requester, iterate Requester.after (k.val + 1) r = .sup ∧
      { asked (read .sup 0 0 1) with rotation := r }.choice = some (.port (read .sup 0 0 1)) ∧
      ∀ j : Fin 4, j < k →
        { asked (read .sup 0 0 1) with rotation := r }.offer (iterate Requester.after (j.val + 1) r) = none) ∧
      (∀ r ∈ [Requester.sup, .cab, .svc, .internal], demo.offer r = none) ∧
      (asked (read .svc 0 0 1)).queues.of .svc = [read .svc 0 0 1] := by
  refine ⟨fun k => ?_, by decide +kernel, by decide⟩
  have h : ∀ k : Fin 4, ∃ r ∈ [Requester.sup, .cab, .svc, .internal],
      iterate Requester.after (k.val + 1) r = .sup ∧
      { asked (read .sup 0 0 1) with rotation := r }.choice = some (.port (read .sup 0 0 1)) ∧
      ∀ j : Fin 4, j < k →
        { asked (read .sup 0 0 1) with rotation := r }.offer (iterate Requester.after (j.val + 1) r) = none := by
    decide +kernel
  obtain ⟨r, _, hr⟩ := h k
  exact ⟨r, hr⟩

/-! ## Refusals at grant -/

/-- The hypotheses of a grant that steps 1 to 6 judge, and an access for each step. -/
theorem test_decision_steps :
    let out := write .sup 0 0xFFFFF [1, 2]
    let unmapped := read .cab 0 0x9000 1
    let locked := write .svc 0 0x9000 [1]
    let unknown := write .svc 4 0x9000 [1]
    let window := write .sup 0 0x3FF [1, 2]
    let across := write .sup 0 0xFFF [1, 2]
    ((asked out).choice = some (.port out) ∧ out.Shaped ∧ (demoTables.rowsOf out).contains .flushRequest = true ∧
      0x100000 < out.addr + out.len) ∧
    ((State.asked (withTables { demoTables with active := none }) unmapped).choice = some (.port unmapped) ∧
      ({ demoTables with active := none }.rowsOf unmapped).contains .portRead = true) ∧
    (demoTables.rowsOf locked).contains .plainWrite = true ∧ 3 < unknown.tag.toNat ∧
    (window.addr < 0 + 0x400 ∧ 0 < window.addr + window.len ∧
      ({ demoTables with lock := true }.rowsOf window).contains .plainWrite = true) ∧
    ((asked across).choice = some (.port across) ∧ across.Shaped ∧
      (demoTables.rowsOf across).contains .plainWrite = true ∧
      ∃ x ∈ demoBlock.ranges, across.addr < x.1 + x.2 ∧ x.1 < across.addr + across.len ∧
        ¬ (x.1 ≤ across.addr ∧ across.addr + across.len ≤ x.1 + x.2)) := by decide +kernel

/-- A typed write without the right, one that covers no unit, one without the slot, one with a wrong check byte. -/
theorem test_typed_write_refusals :
    let denied := write .cab 0 0x1800 [1]
    let shape := write .cab 0 0x1001 (record 32 [])
    let slot := write .cab 1 0x1000 (record 32 [])
    let check := write .cab 0 0x1000 (List.replicate 32 1)
    (∀ a ∈ [denied, shape, slot, check], (asked a).choice = some (.port a) ∧ a.Shaped) ∧
      (demoTables.rowsOf denied).contains .plainWrite = true ∧
      (∀ a ∈ [shape, slot, check], (demoTables.rowsOf a).contains .cabinetStatus = true) ∧
      targetAt (.area .cabstat) 1 32 = none ∧ targetAt (.area .cabstat) 0 32 = some (.status 0) ∧
      (demoTables.slotCheck slot (.status 0)).1 = false ∧ (demoTables.slotCheck check (.status 0)).1 = true ∧
      checkHolds check.data = false := by decide +kernel

/-- A floor half of cabinet 0 by the supervisor. -/
def half (seq code arg : Byte) : Access := write .sup 0 0x1400 (record 8 [seq, code, arg])

/-- The same by console 0. -/
def halfOf (seq code arg : Byte) : Access := { half seq code arg with port := .svc }

theorem half_writes (u : Tables) (hu : u.active = some demoBlock) (a : Access) (hc : (State.asked (withTables u) a).choice = some (.port a))
    (ha : a.kind = .write ∧ a.len = 8 ∧ a.data.length = 8 ∧ a.addr = 0x1400) :
    (State.asked (withTables u) a).Writes a .cabcmd (16 * (0 : Cab).val) 8 :=
  ⟨hc, ha.1, ha.2.1, ha.2.2.1, demoBlock, hu, by decide +kernel, ha.2.2.2⟩

theorem test_floor_half_out_of_turn (k : Fin 4) :
    (asked (half 9 (byteOf (k.val + 1)) 0)).Writes (half 9 (byteOf (k.val + 1)) 0) .cabcmd (16 * (0 : Cab).val) 8 ∧
      (asked (half 9 (byteOf (k.val + 1)) 0)).Commands (half 9 (byteOf (k.val + 1)) 0) 0 none ∧
      checkHolds (half 9 (byteOf (k.val + 1)) 0).data = true ∧ seqPasses (demoTables.cab 0).lastSeq 9 = false ∧
      ((demoTables.setCab 0 { demoCab with outstanding := true }).cab 0).outstanding = true := by
  refine ⟨half_writes demoTables rfl _ ?_ ⟨rfl, rfl, rfl, rfl⟩, Or.inl ⟨rfl, rfl⟩, ?_, by decide +kernel,
    by decide +kernel⟩
  · revert k; decide +kernel
  · revert k; decide +kernel

/-! ## Reads and plain writes -/

/-- Bytes at both ends of the one enabled region, and one outside it. -/
theorem test_region_bytes :
    let holds (n : Fin 8) (x : Nat) : Prop :=
      (demoBlock.regions.at' n).size ≠ 0 ∧ (demoBlock.regions.at' n).base ≤ x ∧
        x < (demoBlock.regions.at' n).base + regionSize (demoBlock.regions.at' n).size
    holds 0 0x8000 ∧ holds 0 0x80FF ∧ (∀ m, holds m 0x80FF → m = 0) ∧ ∀ n, ¬ holds n 0x8100 := by decide +kernel

/-- A plain read at the end of record memory, a read of a whole area's end, a read of the window by SVC. -/
theorem test_reads :
    let plain := read .sup 0 0xFFF00 256
    let area := read .cab 0 0x13E0 32
    let window := read .svc 3 0x3FF 1
    (∀ a ∈ [plain, area, window], (asked a).choice = some (.port a) ∧ a.Shaped ∧ a.addr + a.len ≤ 0x100000) ∧
      (∀ x ∈ demoBlock.ranges, ¬ (plain.addr < x.1 + x.2 ∧ x.1 < plain.addr + plain.len)) ∧
      (demoTables.permittedBytes plain).any id = true ∧ demoBlock.base .cabstat ≤ area.addr ∧
      area.addr + area.len ≤ demoBlock.base .cabstat + Area.size .cabstat ∧ window.addr + window.len ≤ 0x400 ∧
      demoTables.key = .service ∧ window.tag.toNat ≤ 3 := by decide +kernel

/-- In the NOMAP state: the last byte of the window read by SUP, one that leaves it, and one by CAB. -/
theorem test_nomap_reads :
    let window := read .sup 0 0x3FF 1
    let across := read .sup 0 0x3FF 2
    let other := read .cab 0 0x3FF 1
    let s := State.asked (withTables { demoTables with active := none })
    (∀ a ∈ [window, across, other], (s a).choice = some (.port a) ∧ a.kind = .read ∧ a.Shaped ∧
      a.addr + a.len ≤ 0x100000) ∧
      ((nextOf (exec .portRead (s window))).map fun t => t.grant.isSome) = some true ∧
      (∀ a ∈ [across, other], ((nextOf (exec .portRead (s a))).map fun t => t.grant.isSome) = some false) := by
  decide +kernel

/-- A plain write whose last byte leaves the region of CAB, and one with no permitted byte. -/
theorem test_plain_writes :
    let sup := write .sup 0 0x80FF [1, 2]
    let cab := write .cab 0 0x80FF [1, 2]
    (∀ a ∈ [sup, cab], (asked a).choice = some (.port a) ∧ a.Shaped ∧
      ∀ x ∈ demoBlock.ranges, ¬ (a.addr < x.1 + x.2 ∧ x.1 < a.addr + a.len)) ∧
      (demoTables.permittedBytes sup).any id = true ∧ (demoTables.permittedBytes cab).any id = false ∧
      Memory.reset.wf = true ∧ [true, false].length = ([1, 2] : List Byte).length := by decide +kernel

/-- Two runs with a denied byte between them. -/
theorem test_runs :
    runsFrom 0x80FE [] ([true, false, true].zip [1, 2, 3]) = [.write 0x80FE [1], .write 0x8100 [3]] := by decide +kernel

/-! ## Typed writes -/

theorem test_window_write :
    let a := write .sup 0 0x3FE [1, 2]
    (∀ b, (State.asked (withTables { demoTables with lock := b }) a).choice = some (.port a)) ∧ a.Shaped ∧
      a.addr + a.len ≤ 0x400 := by decide +kernel

theorem writes_of (a : Access) (z : Area) (off n : Nat) (hc : (asked a).choice = some (.port a))
    (h : a.kind = .write ∧ a.len = n ∧ a.data.length = n ∧ a.addr = demoBlock.base z + off) :
    (asked a).Writes a z off n :=
  ⟨hc, h.1, h.2.1, h.2.2.1, demoBlock, rfl, by decide +kernel, h.2.2.2⟩

theorem test_status_record :
    let a := write .cab 2 0x1040 (record 32 [2, 3, 1, 1, 0xE8, 3, 4, 0])
    (asked a).Writes a .cabstat (32 * (2 : Cab).val) 32 ∧ (asked a).FromCabinet a 2 ∧ checkHolds a.data = true ∧
      byteAt a.data 0 = byteOf 2 ∧ byteAt a.data 1 = CabMode.code .maintBypass ∧
      byteAt a.data 2 = Utility.code .lost ∧ byteAt a.data 3 = 1 :=
  ⟨writes_of _ _ _ _ (by decide +kernel) (by decide +kernel), by decide +kernel, by decide +kernel, by decide +kernel,
    by decide +kernel, by decide +kernel, by decide +kernel⟩

/-- A measurement of the longest interval that is new, one that repeats the last sequence, and a RETIRED string. -/
theorem test_measurement :
    let a (q : Byte) := write .cab 0 0x2000 (record 32 [0, q, 5, 0, 0x10, 0x0E])
    (∀ q ∈ [(9 : Byte), 10], (asked (a q)).choice = some (.port (a q)) ∧ (asked (a q)).FromCabinet (a q) 0 ∧
      checkHolds (a q).data = true ∧ byteAt (a q).data 0 = byteOf 0 ∧ byteAt (a q).data 2 = byteOf 5 ∧
      (word16At (a q).data 4).toNat = 3600) ∧
      (demoTables.stringsOf 0).contains 0 = true ∧ (demoTables.str 0).age ≠ .retired ∧
      ((demoTables.setStr 0 { demoTables.str 0 with age := .retired }).str 0).age = .retired := by decide +kernel

theorem test_measurement_writes :
    (asked (write .cab 0 0x2000 (record 32 [0, 10, 5, 0, 0x10, 0x0E]))).Writes
      (write .cab 0 0x2000 (record 32 [0, 10, 5, 0, 0x10, 0x0E])) .measure (32 * (0 : Str).val) 32 :=
  writes_of _ _ _ _ (by decide +kernel) (by decide +kernel)

/-- The four CTRL fields, and the distances of a full ring. -/
theorem test_control_fields :
    (asked (write .sup 0 0x1800 [10, 0])).Writes (write .sup 0 0x1800 [10, 0]) .ctrl 0 2 ∧
      (asked (write .sup 0 0x1804 [1, 0, 0, 0])).Writes (write .sup 0 0x1804 [1, 0, 0, 0]) .ctrl 4 4 ∧
      (asked (write .sup 0 0x1808 [1])).Writes (write .sup 0 0x1808 [1]) .ctrl 8 1 ∧
      (asked (write .sup 0 0x1809 [0])).Writes (write .sup 0 0x1809 [0]) .ctrl 9 1 ∧
      (∃ h, demoTables.writer.head = some h ∧ h.distance 10 = some 2 ∧ h.distance 11 = none) ∧
      (⟨0, 5, 256, false⟩ : JHead).distance 5 = some 256 ∧ (⟨0, 5, 0, false⟩ : JHead).distance 5 = some 0 := by
  refine ⟨writes_of _ _ _ _ (by decide +kernel) (by decide +kernel), writes_of _ _ _ _ (by decide +kernel)
    (by decide +kernel), writes_of _ _ _ _ (by decide +kernel) (by decide +kernel), writes_of _ _ _ _
    (by decide +kernel) (by decide +kernel), ⟨_, rfl, by decide, by decide⟩, by decide, by decide⟩

/-! ## Floor commands -/

/-- The hypotheses of a floor half of cabinet 0 by the supervisor, in tables that differ from the demo's. -/
theorem floor_half (u : Tables) (hu : u.active = some demoBlock) (a : Access) (code : Byte)
    (hc : (State.asked (withTables u) a).choice = some (.port a))
    (ha : a.kind = .write ∧ a.len = 8 ∧ a.data.length = 8 ∧ a.addr = 0x1400) (hp : a.port = .sup)
    (hd : checkHolds a.data = true ∧ byteAt a.data 1 = code ∧ seqPasses (u.cab 0).lastSeq (byteAt a.data 0) = true ∧
      (u.cab 0).outstanding = false) : (State.asked (withTables u) a).WritesFloorHalf a 0 none code :=
  ⟨half_writes u hu a hc ha, Or.inl ⟨hp, rfl⟩, hd⟩

theorem test_to_bypass :
    (asked (half 5 1 0)).WritesFloorHalf (half 5 1 0) 0 none 1 ∧ demoTables.present 0 = true ∧
      (demoTables.cab 0).fresh = true ∧ (demoTables.cab 0).machine = .normal ∧
      demoTables.lastModeIs 0 .onlineInverter ∧ demoTables.bypassVisit 0 = some 0 ∧
      demoTables.bypassCountOf 0 < (demoTables.grpCfg 0).limit ∧ (demoTables.grp 0).underTest = none ∧
      (demoTables.marginWithout 0 0).holds = true :=
  ⟨floor_half demoTables rfl _ _ (by decide +kernel) (by decide +kernel) rfl (by decide +kernel), by decide +kernel,
    by decide +kernel, by decide +kernel, ⟨⟨.onlineInverter, .ok⟩, by decide +kernel, rfl⟩, by decide +kernel,
    by decide +kernel, by decide +kernel, by decide +kernel⟩

/-- A return from each state that may return, and from one that may not. -/
theorem test_to_online :
    (∀ m ∈ [Xfer.bypass, .unsanctioned, .xferOut, .normal],
      let u := demoTables.setCab 0 { demoCab with machine := m, holder := some 0 }
      (State.asked (withTables u) (half 5 2 0)).choice = some (.port (half 5 2 0)) ∧ u.present 0 = true ∧
        seqPasses (u.cab 0).lastSeq 5 = true ∧ (u.cab 0).outstanding = false) ∧
      (asked (half 5 2 0)).WritesFloorHalf (half 5 2 0) 0 none 2 :=
  ⟨by decide +kernel,
    floor_half demoTables rfl _ _ (by decide +kernel) (by decide +kernel) rfl (by decide +kernel)⟩

/-- A permitted TEST_START by console 0. -/
theorem test_test_start :
    (asked (halfOf 5 3 0)).WritesFloorHalf (halfOf 5 3 0) 0 (some 0) 3 ∧ byteAt (halfOf 5 3 0).data 2 = byteOf 0 ∧
      demoTables.stringAt 0 0 = some 0 ∧ demoTables.owner 0 = some 0 ∧ hasBit (demoTables.vis 0).perms 1 = true ∧
      (demoTables.str 0).age ≠ .retired ∧ demoTables.lastModeIs 0 .onlineInverter ∧
      (∀ x ∈ demoTables.members 0, (demoTables.cab x).machine = .normal) ∧ (demoTables.grp 0).underTest = none ∧
      (demoTables.grp 0).state ≠ .utilityLoss ∧ (demoTables.marginUnusable 0 0 0).holds = true :=
  ⟨⟨half_writes demoTables rfl _ (by decide +kernel) (by decide +kernel),
      Or.inr ⟨0, rfl, by decide +kernel, by decide +kernel, by decide +kernel⟩, by decide +kernel, by decide +kernel,
      by decide +kernel, by decide +kernel⟩,
    by decide +kernel, by decide +kernel, by decide +kernel, by decide +kernel, by decide +kernel,
    ⟨⟨.onlineInverter, .ok⟩, by decide +kernel, rfl⟩, by decide +kernel, by decide +kernel, by decide +kernel,
    by decide +kernel⟩

/-- A TEST_STOP of a live test, of a STOPPING one and of an IDLE string. -/
theorem test_test_stop :
    (asked (half 5 4 0)).WritesFloorHalf (half 5 4 0) 0 none 4 ∧
      ∀ x ∈ [TestState.running, .stopping, .idle],
        let u := demoTables.setTest 0 { TestFields.reset with state := x }
        (State.asked (withTables u) (half 5 4 0)).choice = some (.port (half 5 4 0)) ∧ u.stringAt 0 0 = some 0 ∧
          (u.str 0).test.state = x :=
  ⟨floor_half demoTables rfl _ _ (by decide +kernel) (by decide +kernel) rfl (by decide +kernel), by decide +kernel⟩

/-! ## Visit requests and work orders -/

def request (t : Con) (l : List Byte) : Access := write .svc (byteOf t.val) (0x1600 + 32 * t.val) (record 32 l)

theorem writes_request (u : Tables) (hu : u.active = some demoBlock) (t : Con) (l : List Byte) (code : Byte)
    (hc : (State.asked (withTables u) (request t l)).choice = some (.port (request t l)))
    (hl : (request t l).len = 32 ∧ (request t l).data.length = 32 ∧ (request t l).addr = demoBlock.base .visit + 32 * t.val)
    (hk : u.key = .service)
    (hd : checkHolds (request t l).data = true ∧ byteAt (request t l).data 1 = code ∧
      seqPasses (u.vis t).lastReq (byteAt (request t l).data 0) = true) :
    (State.asked (withTables u) (request t l)).WritesRequest (request t l) t code :=
  ⟨⟨hc, rfl, hl.1, hl.2.1, demoBlock, hu, by decide +kernel, hl.2.2⟩, ⟨rfl, rfl, hk⟩, hd⟩

theorem test_visit_open :
    (asked (request 1 [0, 1, 0, 0, 9, 0, 0, 0, 6])).WritesRequest (request 1 [0, 1, 0, 0, 9, 0, 0, 0, 6]) 1 1 ∧
      word32At (request 1 [0, 1, 0, 0, 9, 0, 0, 0, 6]).data 4 = 9 ∧
      word32At (request 1 [0, 1, 0, 0, 9, 0, 0, 0, 6]).data 8 = 6 ∧ (demoTables.vis 1).state.isOpen = false ∧
      (demoTables.ord 1).state = .offered ∧ (demoTables.ord 1).number = 9 ∧
      (∀ m, m ≠ 1 → ¬ ((demoTables.ord m).state = .offered ∧ (demoTables.ord m).number = 9)) ∧
      demoTables.synced = true ∧ (demoTables.ord 1).windowStart.toNat ≤ demoTables.clock.toNat ∧
      demoTables.clock.toNat < (demoTables.ord 1).windowEnd.toNat ∧
      ∀ x, (demoTables.vis x).state.isOpen = true →
        (demoTables.vis x).badge ≠ 6 ∧ (demoTables.vis x).scope &&& (demoTables.ord 1).scope = 0 :=
  ⟨writes_request demoTables rfl _ _ _ (by decide +kernel) (by decide +kernel) rfl (by decide +kernel),
    by decide +kernel⟩

/-- CLOSE with no cabinet held; REPLACE at each end of its capacities, and RETIRE, of a string of a held cabinet. -/
theorem test_visit_work :
    let u := demoTables.setCab 0 { demoCab with machine := .bypass, holder := some 0 }
    (asked (request 0 [0, 2])).WritesRequest (request 0 [0, 2]) 0 2 ∧ (∀ c, (demoTables.cab c).holder ≠ some 0) ∧
      (State.asked (withTables u) (request 0 [0, 3])).WritesRequest (request 0 [0, 3]) 0 3 ∧
      (State.asked (withTables u) (request 0 [0, 4])).WritesRequest (request 0 [0, 4]) 0 4 ∧ u.owner 0 = some 0 ∧
      hasBit (u.vis 0).scope 0 = true ∧ (u.cab 0).machine = .bypass ∧ (u.cab 0).holder = some 0 ∧
      (u.str 0).test.state = .idle ∧ hasBit (u.vis 0).perms 2 = true ∧ hasBit (u.vis 0).perms 3 = true ∧
      (u.str 0).age = .healthy ∧ (word16At (request 0 [0, 3]).data 12 = 0) ∧
      (word16At (request 0 [0, 3, 0, 0, 0, 0, 0, 0, 0, 0, 0, 0, 0xB8, 0x0B]).data 12).toNat = 3000 :=
  ⟨writes_request demoTables rfl _ _ _ (by decide +kernel) (by decide +kernel) rfl (by decide +kernel),
    by decide +kernel,
    writes_request _ rfl _ _ _ (by decide +kernel) (by decide +kernel) rfl (by decide +kernel),
    writes_request _ rfl _ _ _ (by decide +kernel) (by decide +kernel) rfl (by decide +kernel), by decide +kernel⟩

def order (n : Slot) (l : List Byte) : Access := write .sup 0 (0x1700 + 32 * n.val) (record 32 l)

/-- OFFER of the longest visit, WITHDRAW of the offered order, CLEAR of a free slot and of one in use. -/
theorem test_orders :
    (asked (order 2 [1, 15, 0xD0, 2, 8])).Writes (order 2 [1, 15, 0xD0, 2, 8]) .workord (32 * (2 : Slot).val) 32 ∧
      (asked (order 1 [2, 0, 0, 0, 9])).Writes (order 1 [2, 0, 0, 0, 9]) .workord (32 * (1 : Slot).val) 32 ∧
      (asked (order 1 [3])).Writes (order 1 [3]) .workord (32 * (1 : Slot).val) 32 ∧
      (∀ a ∈ [order 2 [1, 15, 0xD0, 2, 8], order 1 [2, 0, 0, 0, 9], order 1 [3]],
        checkHolds a.data = true ∧ (byteAt a.data 1).toNat < 16) ∧
      (parseTerms (order 2 [1, 15, 0xD0, 2, 8]).data).maxMinutes.toNat = 720 ∧ (demoTables.ord 2).state ≠ .inUse ∧
      (8 : Word32) ∉ demoTables.spent ∧ (∀ m, m ≠ 2 → (demoTables.ord m).number ≠ 8) ∧
      (demoTables.ord 1).state = .offered ∧
      (demoTables.ord 1).number = (parseTerms (order 1 [2, 0, 0, 0, 9]).data).number ∧
      (demoTables.ord 0).state = .inUse :=
  ⟨writes_of _ _ _ _ (by decide +kernel) (by decide +kernel), writes_of _ _ _ _ (by decide +kernel) (by decide +kernel),
    writes_of _ _ _ _ (by decide +kernel) (by decide +kernel), by decide +kernel⟩

/-! ## Completions and takes -/

/-- A write of one byte at the top of record memory, in flight with a take. -/
def landing (t : Take) : InFlight :=
  { acc := write .sup 0 0xFFFFF [0xAA], ops := [.write 0xFFFFF [0xAA]], permitted := [true], take := t }

def flying (t : Take) : State := State.flying demo (landing t)

theorem test_completed_write :
    (flying .nothing).grant = some (.port (landing .nothing)) ∧ (flying .nothing).mem.wf = true ∧
      (landing .nothing).acc.Shaped ∧ (landing .nothing).ops = [.write 0xFFFFF [0xAA]] ∧
      (landing .nothing).permitted = List.replicate 1 true ∧ 0xFFFFF + 1 ≤ 0x100000 ∧
      (flying .nothing).tables.mode ≠ .halting ∧ (landing .nothing).ops.all MemOp.inRange = true := by decide +kernel

/-- A plain write of two runs in flight. -/
def twoRuns : InFlight :=
  { acc := write .cab 0 0x80FE [1, 2, 3], ops := [.write 0x80FE [1], .write 0x8100 [3]], permitted := [true, false, true]
    take := .nothing }

/-- The bytes of `twoRuns` after its completion, and the reply's status, reason, detail and count. -/
def ranTo (answer : AccessAnswer) : Option (List (Option Byte) × Option (List Byte)) :=
  (nextOf (exec (.portAccessComplete answer) (State.flying demo twoRuns))).map fun t =>
    (([0x80FE, 0x80FF, 0x8100] : List Nat).map t.mem.look, t.sent.getLast?.map fun r => (r.2.drop 1).take 4)

/-- OK, and FAULT of each of its runs. -/
theorem test_runs_complete :
    let f := twoRuns
    ((State.flying demo f).grant = some (.port f) ∧ (State.flying demo f).mem.wf = true ∧ f.acc.Shaped ∧
      f.permitted.length = f.acc.len ∧ f.ops = runsFrom f.acc.addr [] (f.permitted.zip f.acc.data) ∧
      f.acc.addr + f.acc.len ≤ 0x100000 ∧ f.take = .nothing ∧ (State.flying demo f).tables.mode ≠ .halting) ∧
      ranTo .ok = some ([some 1, some 0, some 3], some [1, 3, 0, 2]) ∧
      (ranTo (.fault 0)).map (·.1) = some [none, some 0, some 0] ∧
      (ranTo (.fault 1)).map (·.1) = some [some 1, some 0, none] := by decide +kernel

/-- A read of two bytes of which one is denied. -/
theorem test_completed_read :
    let f : InFlight := ⟨read .cab 0 0x80FF 2, [.read 0x80FF 2], [true, false], .nothing⟩
    (State.flying demo f).grant = some (.port f) ∧ f.acc.Shaped ∧ f.permitted.length = 2 ∧
      ∀ i, i < 2 → (State.flying demo f).mem.look (0x80FF + i) = ([0, 0] : List Byte)[i]? := by decide +kernel

/-- A faulted status record and the two faulted transfers. -/
theorem test_faulted_write :
    let k : Take := .status 0 ⟨.off, .ok, .accepted, 0, 0, 0⟩
    (flying k).grant = some (.port (landing k)) ∧ (landing k).take = k ∧
      (landing (.floor 0 5 .toBypass .toBypass false)).take = .floor 0 5 .toBypass .toBypass false ∧
      (landing (.floor 0 5 .toOnline (.toOnline .bypass (some 0)) true)).take =
        .floor 0 5 .toOnline (.toOnline .bypass (some 0)) true := by decide +kernel

theorem test_control_takes :
    (∀ k ∈ [Take.clockSet 7, .flush, .faultClear, .consumed 10 2],
      (flying k).grant = some (.port (landing k)) ∧ (landing k).ops.all MemOp.inRange = true) ∧
      ∃ h, (flying (.consumed 10 2)).tables.writer.head = some h ∧ h.lost = false ∧ h.unconsumed = 2 :=
  ⟨by decide +kernel, _, rfl, by decide, by decide⟩

/-- Every machine steps on a taken status record; BYPASS is left. -/
theorem test_status_take :
    let k : Take := .status 0 ⟨.onlineInverter, .ok, .accepted, 100, 4, 0⟩
    (flying k).grant = some (.port (landing k)) ∧
      ∀ m ∈ [Xfer.absent, .learning, .normal, .xferOut, .bypass, .xferBack, .unsanctioned],
        ((nextOf (exec (.portAccessComplete .ok)
          (State.flying (withTables (demoTables.setCab 0 { demoCab with machine := m })) (landing k)))).map
            fun s => (s.tables.cab 0).machine) =
          some (match m with | .absent => .absent | .xferOut => .xferOut | _ => .normal) := by decide +kernel

/-- A DISCHARGE below the threshold opens an episode, a FLOAT closes it. -/
theorem test_measurement_take :
    let r : MeasRec :=
      { seq := 10, mode := .discharge, interval := 3600, temperature := 251, chargeOut := 5, lowBlock := 1749 }
    (flying (.measure 0 r)).grant = some (.port (landing (.measure 0 r))) ∧
      (landing (.measure 0 { r with mode := .float })).take = .measure 0 { r with mode := .float } ∧
      ((nextOf (exec (.portAccessComplete .ok) (flying (.measure 0 r)))).map fun s =>
        let e := s.tables.str 0
        (e.thermal, e.remainder, e.discharged, e.deepCount, e.episode)) = some (4950, 0, 5, 1, true) := by
  decide +kernel

theorem test_replace_and_retire :
    (flying (.replace 0 1 0 200)).grant = some (.port (landing (.replace 0 1 0 200))) ∧
      (landing (.retire 0 1 0)).take = .retire 0 1 0 ∧ (landing (.retire 0 1 0)).ops.all MemOp.inRange = true := by
  decide +kernel

/-! ## The internal requester and the record writer -/

/-- Tables whose next internal operation is a recall read, a loader read, a write of the writer. -/
def recalling : Tables :=
  { demoTables with mode := .recalling, recalling := some { todo := [.header], got := [], resumed := false } }

def applying (todo : List LoaderRead) : Tables :=
  { demoTables with apply := some { todo, block := [], commands := [], orders := [] } }

def marked (f : Writer → Writer) : Tables := { demoTables with writer := f demoTables.writer }

theorem test_internal_choices :
    (withTables recalling).choice = some (.internal (.recallRead .header)) ∧
      (withTables (applying [.block 1])).choice = some (.internal (.loader (.block 1))) ∧
      (withTables (marked fun w => { w with urgent := [⟨.header, 0⟩] })).choice =
        some (.internal (.writer (.record .header) false)) := by decide +kernel

/-- Each collection of the writer, first in its turn. -/
theorem test_writer_turns :
    let p : PendEntry := ⟨8, (demoEntry 8).entry, 1⟩
    demoTables.apply = none ∧ demoTables.active ≠ none ∧
      (marked fun w => { w with retry := some (.half 0) }).internalNext = some (.writer (.half 0) true) ∧
      (marked fun w => { w with span := [demoEntry 8] }).internalNext = some (.writer (.span (demoEntry 8)) false) ∧
      (marked fun w => { w with urgent := [⟨.header, 0⟩], pending := [p] }).internalNext =
        some (.writer (.record .header) false) ∧
      (marked fun w => { w with urgent := [⟨.header, 2⟩], pending := [p] }).internalNext =
        some (.writer (.pending p) false) ∧
      (marked fun w => { w with pending := [p] }).internalNext = some (.writer (.pending p) false) ∧
      { demoTables with mode := .draining }.internalNext = some (.writer .haltedHeader false) := by decide +kernel

/-- The internal requester's order: recall before an apply before the writer; nothing where the part presents nothing. -/
theorem test_internal_order :
    let marks := { demoTables.writer with urgent := [⟨.header, 0⟩] }
    let u : Tables := { applying [.block 1] with writer := marks }
    { u with mode := .recalling, recalling := some { todo := [.header], got := [], resumed := false } }.internalNext =
        some (.recallRead .header) ∧
      { u with mode := .recalling, recalling := some { todo := [], got := [], resumed := false } }.internalNext = none ∧
      u.internalNext = some (.loader (.block 1)) ∧
      { u with active := none }.internalNext = some (.loader (.block 1)) ∧
      { applying [] with writer := marks }.internalNext = some (.writer (.record .header) false) ∧
      { applying [] with writer := marks, active := none }.internalNext = none ∧
      ∀ m ∈ [RunMode.inReset, .halting, .halted], { u with mode := m }.internalNext = none := by decide +kernel

/-- A cabinet's place with its half mark set and clear, and another record's. -/
theorem test_place_jobs :
    let w := { Writer.reset with half := Tab.gen fun c => decide (c = 0) }
    w.placeJob ⟨.cabinet 0, 1⟩ = .half 0 ∧ w.placeJob ⟨.cabinet 1, 1⟩ = .record (.cabinet 1) ∧
      w.placeJob ⟨.header, 1⟩ = .record .header := by decide +kernel

/-- An entry that is taken, and one that finds the ring full. -/
theorem test_entries :
    demoTables.active ≠ none ∧
      (demoTables.journal .cabStale .warning 0 0 0).writer.head = some ⟨11, 11, 3, false⟩ ∧
      ((marked fun w => { w with head := some ⟨0, 0, 256, false⟩ }).journal .cabStale .warning 0 0 0).writer.head =
        some ⟨0, 0, 256, true⟩ := by decide +kernel

def writing (j : WriterJob) (isRetry : Bool) : State :=
  { demo with grant := some (.writer j isRetry 0xFFFFF [0x4B]) }

theorem test_writer_writes :
    (writing (.half 0) true).grant = some (.writer (.half 0) true 0xFFFFF [0x4B]) ∧
      (writing (.record .header) false).mem.wf = true ∧
      1 ≤ ([0x4B] : List Byte).length ∧ ([0x4B] : List Byte).length ≤ 256 ∧
      0xFFFFF + ([0x4B] : List Byte).length ≤ 0x100000 ∧
      (nextOf (exec (.writerWriteComplete .fault) (writing (.half 0) true))).map (fun s => s.tables.writer.latch) =
        some true := by decide +kernel

/-- A pending entry done and given up; a record and a half given up, and in the drain left in no set, whatever marks
follow. -/
theorem test_given_up_writes :
    let p : PendEntry := ⟨8, (demoEntry 8).entry, 1⟩
    let u (m : RunMode) := { (marked fun w => { w with pending := [p], stamp := 2 }) with mode := m }
    let after (m : RunMode) (j : WriterJob) (answer : MemAnswer) :=
      (nextOf (exec (.writerWriteComplete answer) { writing j true with tables := u m })).map (·.tables)
    let sets (t : Option Tables) := t.map fun t => (t.writer.urgent.map (·.what), t.writer.lazySet)
    (∀ answer ∈ [MemAnswer.ok, .fault],
      (after .running (.pending p) answer).map (fun t => t.writer.pending) = some []) ∧
      sets (after .running (.record (.group 0)) .fault) = some ([.header, .journalHeader], [.group 0]) ∧
      sets (after .running (.half 1) .fault) = some ([.header, .journalHeader], [.cabinet 1]) ∧
      (after .running (.half 1) .fault).map (fun t => t.writer.half.at' 1) = some true ∧
      sets (after .draining (.record (.group 0)) .fault) = some ([.journalHeader], []) ∧
      sets ((after .draining (.record .journalHeader) .fault).map (·.markLazy .journalHeader)) = some ([], []) ∧
      ((after .draining (.half 1) .fault).map (·.markHalf 1)).map (fun t => t.writer.half.at' 1) = some false := by
  decide +kernel

/-! ## The loader and recall -/

/-- A loader read with reads left, and the last block read of a block that is not valid. -/
theorem test_loader_reads :
    let s (i : Fin 4) (todo : List LoaderRead) : State :=
      { withTables (applying todo) with grant := some (.loader (.block i) 0x300 256) }
    (s 1 [.block 2]).grant = some (.loader (.block 1) 0x300 256) ∧ 0x300 + 256 ≤ 0x100000 ∧
      (s 1 [.block 2]).tables.apply = some { todo := [.block 2], block := [], commands := [], orders := [] } ∧
      (s 3 []).tables.apply = some { todo := [], block := [], commands := [], orders := [] } ∧
      (nextOf (exec (.applyReadComplete .ok) (s 3 []))).map (fun s => s.tables.writer.applyResult) = some .invalid := by
  decide +kernel

def recallState (r : RecallRead) (n : Nat) (active : Option Block) : State :=
  { withTables { recalling with active, recalling := some { todo := [], got := [], resumed := false } } with
    grant := some (.recallRead r 0x300 n) }

/-- The last block read, answered either way; the header; the last ring read. -/
theorem test_recall_reads :
    (recallState (.block 3) 256 none).grant = some (.recallRead (.block 3) 0x300 256) ∧
      (recallState .header 64 (some demoBlock)).tables.mode = .recalling ∧
      (recallState .header 64 (some demoBlock)).tables.recalling = some { todo := [], got := [], resumed := false } ∧
      (zeros 64).length = 64 ∧
      (∀ i, i < 64 → (recallState .header 64 (some demoBlock)).mem.look (0x300 + i) = (zeros 64)[i]?) ∧
      (recallState (.ring 15) 256 (some demoBlock)).tables.active ≠ none ∧
      (nextOf (exec (.recallReadComplete .ok) (recallState (.ring 15) 256 (some demoBlock)))).map
        (fun s => s.tables.mode) = some .running := by decide +kernel

/-- The header read answered FAULT, in a state whose clock is not 0. -/
theorem test_recalled_clock :
    let s := recallState .header 64 (some demoBlock)
    s.grant = some (.recallRead .header 0x300 64) ∧ s.tables.clock = 100 ∧
      ((nextOf (exec (.recallReadComplete .fault) s)).map fun t =>
        (t.tables.clock, t.tables.advancing, t.tables.recalling.map (·.todo.length))) = some (0, true, some 16) := by
  decide +kernel

/-! ## Every cause of a refusal -/

/-- Status, reason and detail of the reply a command's grant or completion sends. -/
def answers (i : Instr) (s : State) : Option (List Byte) :=
  (nextOf (exec i s)).bind fun t => t.sent.getLast?.map fun r => (r.2.drop 1).take 3

/-- The access is the arbiter's choice in `u`, lies within the area of its kind, and its grant is refused so. -/
def refuses (u : Tables) (a : Access) (i : Instr) (r : Row) (reason detail : Byte) : Bool :=
  decide ((State.asked (withTables u) a).choice = some (.port a)) && decide a.Shaped && grantCommands.contains (i, r) &&
    (u.rowsOf a).contains r && decide (answers i (State.asked (withTables u) a) = some [2, reason, detail])

/-- Each slot right of R37 broken alone, and the config window written by CAB and by SVC at its last byte. -/
theorem test_slot_rights :
    refuses demoTables (write .cab 1 0x1000 (record 32 [])) .cabinetStatus .cabinetStatus 3 0 ∧
      refuses demoTables (write .cab 0 0x2020 (record 32 [])) .measurement .measurement 3 0 ∧
      refuses demoTables (write .svc 1 0x1600 (record 32 [0, 1])) .visitOpen .visitOpen 3 0 ∧
      refuses demoTables (write .sup 0 0x1408 (record 8 [5, 1])) .plainWrite .plainWrite 3 0 ∧
      refuses demoTables (write .svc 0 0x1410 (record 8 [5, 1])) .toBypass .toBypass 9 0x0E ∧
      refuses demoTables (write .cab 0 0x3FF [1]) .plainWrite .plainWrite 3 0 ∧
      refuses demoTables (write .svc 3 0x3FF [1]) .plainWrite .plainWrite 3 0 := by decide +kernel

/-- A plain read with no permitted byte, an area read and a window read without the right. -/
theorem test_denied_reads :
    ∀ a ∈ [read .cab 0 0x8100 1, read .cab 0 0x1600 32, read .svc 0 0x1800 1, read .cab 0 0x3FF 1],
      refuses demoTables a .portRead .portRead 3 0 := by decide +kernel

/-- The demo's tables with no present cabinet. -/
def noCabs : Tables := { demoTables with active := some { demoBlock with cabs := Tab.fill 32 .absent } }

/-- Each cause of R90 refuses a TO_BYPASS, and an absent cabinet refuses a TO_ONLINE. -/
theorem test_floor_refusals :
    let d := demoTables
    (∀ x ∈ [(noCabs, (1 : Byte)), (d.setCab 0 { demoCab with fresh := false }, 2),
        (d.setCab 0 { demoCab with machine := .bypass }, 3), (d.setVis 0 .reset, 4),
        (d.setCab 1 { demoCab with machine := .bypass }, 5), (d.setGrp 0 { d.grp 0 with underTest := some 1 }, 6),
        (d.setCab 1 { demoCab with load := 0xFFFF }, 7)],
      refuses x.1 (half 5 1 0) .toBypass .toBypass 8 x.2) ∧
      refuses noCabs (half 5 2 0) .toOnline .toOnline 8 1 := by decide +kernel

/-- A command code below and above the four; each check of R68 and of R109 (1) to (3) broken alone, for a RETIRED string
too. -/
theorem test_shape_refusals :
    let d := demoTables
    let status (l : List Byte) : Access := write .cab 2 0x1040 (record 32 l)
    let measured (l : List Byte) : Access := write .cab 0 0x2000 (record 32 l)
    let retired := d.setStr 0 { d.str 0 with age := .retired }
    (∀ code ∈ [(0 : Byte), 5], refuses d (half 5 code 0) .plainWrite .plainWrite 6 0) ∧
      (∀ l ∈ [[3], [(2 : Byte), 6], [2, 0, 2], [2, 0, 0, 2]],
        refuses d (status l) .cabinetStatus .cabinetStatus 6 0) ∧
      ∀ l ∈ [[1, 10, 0, 0, 1, 0], [0, 10, 6, 0, 1, 0], [0, 10, 0, 0, 0, 0], [(0 : Byte), 10, 5, 0, 0x11, 0x0E]],
        refuses d (measured l) .measurement .measurement 6 0 ∧
          refuses retired (measured l) .measurement .measurement 6 0 := by decide +kernel

/-- Each condition of R128, broken first, and a TEST_STOP for a position with no string; an argument of 4 for both. -/
theorem test_test_refusals :
    let d := demoTables
    (∀ x ∈ [(d.setVis 0 { demoVisit with perms := 1 }, halfOf 5 3 0, (0x0C : Byte)), (d, half 5 3 1, 1),
        (d.setStr 0 { d.str 0 with age := .retired }, half 5 3 0, 0x0B),
        (d.setCab 0 { demoCab with fresh := false }, half 5 3 0, 2),
        (d.setCab 0 { demoCab with report := some ⟨.onBattery, .ok⟩ }, half 5 3 0, 3),
        (d.setCab 1 { demoCab with machine := .bypass }, half 5 3 0, 8),
        (d.setGrp 0 { d.grp 0 with underTest := some 1 }, half 5 3 0, 6),
        (d.setGrp 0 { d.grp 0 with state := .utilityLoss }, half 5 3 0, 9),
        (d.setCab 1 { demoCab with load := 0xFFFF }, half 5 3 0, 7)],
      refuses x.1 x.2.1 .testStart .testStart 8 x.2.2) ∧
      refuses d (half 5 3 4) .testStart .testStart 6 0 ∧ refuses d (half 5 4 3) .testStop .testStop 8 1 ∧
      refuses noCabs (half 5 4 0) .testStop .testStop 8 1 ∧ refuses d (half 5 4 4) .testStop .testStop 6 0 := by
  decide +kernel

/-- OPEN by console 1 with an order number and a badge. -/
def opening (number badge : Byte) : Access := request 1 [0, 1, 0, 0, number, 0, 0, 0, badge]

/-- A request of no action and one out of sequence; each condition of R150, broken first, at the window's two ends. -/
theorem test_open_refusals :
    let d := demoTables
    let o := d.ord 1
    (∀ code ∈ [(0 : Byte), 5], refuses d (request 1 [0, code]) .plainWrite .plainWrite 6 0) ∧
      refuses (d.setVis 1 { Visit.reset with lastReq := some 0 }) (opening 9 6) .visitOpen .visitOpen 6 0 ∧
      ∀ x ∈ [(d, opening 0 6, (6 : Byte), (0 : Byte)), (d, opening 9 0, 6, 0),
        (d.setVis 1 { demoVisit with state := .warned }, opening 9 6, 0x0A, 0x16), (d, opening 7 6, 0x0A, 0x14),
        ({ d with spent := [8] }, opening 8 6, 0x0A, 0x13), (d, opening 8 6, 0x0A, 0x12),
        ({ d with synced := false }, opening 9 6, 0x0A, 0x10), ({ d with clock := 49 }, opening 9 6, 0x0A, 0x11),
        ({ d with clock := 200 }, opening 9 6, 0x0A, 0x11), (d, opening 9 5, 0x0A, 0x15),
        (d.setOrd 1 { o with scope := 1 }, opening 9 6, 9, 0x0F)],
        refuses x.1 x.2.1 .visitOpen .visitOpen x.2.2.1 x.2.2.2 := by decide +kernel

/-- CLOSE without a visit and with a cabinet held; each condition of R158 and R121, broken first. -/
theorem test_work_refusals :
    let d := demoTables
    let u := d.setCab 0 { demoCab with machine := .bypass, holder := some 0 }
    let cap (l : List Byte) : Access := request 0 ([0, 3, 0, 0, 0, 0, 0, 0, 0, 0, 0, 0] ++ l)
    refuses d (request 1 [0, 2]) .visitClose .visitClose 0x0A 4 ∧
      refuses u (request 0 [0, 2]) .visitClose .visitClose 0x0A 0x17 ∧
      (∀ x ∈ [(u, request 0 [0, 3, 128], (6 : Byte), (0 : Byte)), (u.setVis 0 .reset, request 0 [0, 3], 0x0A, 4),
          (u.setVis 0 { demoVisit with perms := 0xB }, request 0 [0, 3], 8, 0x0C), (u, request 0 [0, 3, 127], 8, 1),
          (u, request 0 [0, 3, 1], 9, 0x0E), (d, request 0 [0, 3], 8, 0x0A),
          (u.setTest 0 { TestFields.reset with state := .stopping }, request 0 [0, 3], 8, 6), (u, cap [9, 0], 6, 0),
          (u, cap [0xB9, 0x0B], 6, 0)],
        refuses x.1 x.2.1 .visitReplace .visitReplace x.2.2.1 x.2.2.2) ∧
      refuses (u.setVis 0 { demoVisit with perms := 7 }) (request 0 [0, 4]) .visitRetire .visitRetire 8 0x0C ∧
      ∀ k ∈ [AgeState.unverified, .retired],
        refuses (u.setStr 0 { u.str 0 with age := k }) (request 0 [0, 4]) .visitRetire .visitRetire 0x0A 0x0B := by
  decide +kernel

/-- Each field of R144 out of its range, and each condition of R145 and R146, broken first. -/
theorem test_order_refusals :
    let d := demoTables
    (∀ a ∈ [order 2 [0], order 2 [4]], refuses d a .plainWrite .plainWrite 6 0) ∧
      (∀ a ∈ [order 2 [1, 16, 1, 0, 8], order 2 [1, 0, 1, 0, 0], order 2 [1, 0, 0, 0, 8], order 2 [1, 0, 0xD1, 2, 8]],
        refuses d a .orderOffer .orderOffer 6 0) ∧
      refuses d (order 0 [1, 0, 1, 0, 8]) .orderOffer .orderOffer 7 0 ∧
      refuses { d with spent := [8] } (order 2 [1, 0, 1, 0, 8]) .orderOffer .orderOffer 0x0A 0x13 ∧
      refuses d (order 2 [1, 0, 1, 0, 9]) .orderOffer .orderOffer 0x0A 0x14 ∧
      refuses d (order 2 [2, 0, 0, 0, 9]) .orderWithdraw .orderWithdraw 0x0A 0x12 ∧
      refuses d (order 0 [3]) .orderClear .orderClear 7 0 := by decide +kernel

/-! ## Takes, their undoing, and what follows them -/

/-- What a completed write's take leaves of `f` in the tables. -/
def taking {α : Type} (u : Tables) (k : Take) (f : Tables → α) : Option α :=
  (nextOf (exec (.portAccessComplete .ok) (State.flying (withTables u) (landing k)))).map fun t => f t.tables

/-- What a faulted write leaves of it. -/
def undoing {α : Type} (u : Tables) (k : Take) (f : Tables → α) : Option α :=
  (nextOf (exec (.portAccessComplete (.fault 0)) (State.flying (withTables u) (landing k)))).map fun t => f t.tables

/-- An open visit and one that is not; each state of an order that a WITHDRAW meets. -/
theorem test_visit_and_order_takes :
    taking demoTables (.visitClose 0 3) (fun t => ((t.vis 0).state, (t.ord 0).state, t.spent)) =
        some (.ended, .spent, [7]) ∧
      taking demoTables (.visitClose 1 3) (fun t => ((t.vis 1).state, (t.vis 1).lastReq)) = some (.none, some 3) ∧
      taking demoTables (.visitOpen 0 3 1 .reset) (fun t => t.writer.copy.length) = some 3 ∧
      (demoTables.ord 0).bound = some 0 ∧ (demoTables.vis 0).state.isOpen = true ∧
      ∀ x ∈ [((0 : Slot), OrderState.withdrawn), (1, .withdrawn), (2, .empty)],
        taking demoTables (.withdraw x.1) (fun t => (t.ord x.1).state) = some x.2 := by decide +kernel

/-- The apply field written with the generation, and alone with the copy standing; one byte of it starts nothing. -/
theorem test_config_take :
    let reading := [LoaderRead.block 0, .block 1, .block 2, .block 3]
    let u := { demoTables with genLow := some 5, genHigh := some 6 }
    let todo (u : Tables) (a : Access) := (u.takeAccess a .config).apply.map (·.todo)
    todo demoTables (write .sup 0 2 [5, 6, 5, 6]) = some reading ∧ todo u (write .sup 0 4 [5, 6]) = some reading ∧
      todo demoTables (write .sup 0 4 [5, 6]) = none ∧ todo u (write .sup 0 5 [6]) = none := by decide +kernel

/-- A read whose second byte a faulted write has left undefined, and a read answered FAULT. -/
theorem test_read_of_undefined_bytes :
    let f : InFlight := ⟨read .sup 0 0x80FF 2, [.read 0x80FF 2], [true, true], .nothing⟩
    let s : State := { State.flying demo f with mem := Memory.reset.spoil 0x8100 1 }
    s.grant = some (.port f) ∧ f.acc.Shaped ∧ s.mem.look 0x80FF = some 0 ∧ s.mem.look 0x8100 = none ∧
      (s.mem.takeBytes 0x80FF 2).1.length = 2 ∧
      (nextOf (exec (.portAccessComplete (.fault 0)) s)).map (fun t => t.mem) = some s.mem := by decide +kernel

/-- Cabinet 0 with a test of string 0 in `k`, awaiting floor sequence 5. -/
def testing (k : TestState) : Tables :=
  let d := demoTables
  (d.setGrp 0 { d.grp 0 with underTest := some 0, testTimer := some 0 }).setStr 0
    { d.str 0 with
      usable := false
      test := { TestFields.reset with state := k, awaitFloor := some 5, awaitSup := some 7, charge := 24000 } }

/-- Each undoing of R129, R130 and R151, with its test and its visit standing and gone. -/
theorem test_undone_takes :
    let old : TestFields := { TestFields.reset with state := .requested }
    let live : Take := .floor 0 5 (.testStop 0) (.stopLive 0 old true) false
    demoTables.place 0 = some (0, 0) ∧
      undoing (testing .requested) (.floor 0 5 (.testStart 0) (.testStart 0 .reset) false)
        (fun t => ((t.str 0).test, (t.grp 0).underTest)) = some (.reset, none) ∧
      undoing (testing .stopping) live (fun t => ((t.str 0).test, (t.cab 0).cmdTimer)) = some (old, some 60) ∧
      undoing (testing .running) live (fun t => ((t.str 0).test.state, (t.cab 0).cmdTimer)) = some (.running, none) ∧
      (∀ q ∈ [(5 : Byte), 6],
        undoing (testing .stopping) (.floor 0 q (.testStop 0) (.stopAdded 0 (some 2)) false)
          (fun t => (t.str 0).test.awaitFloor) = some (some (if q = 5 then 2 else 5))) ∧
      undoing demoTables (.floor 0 5 (.testStop 0) .stopIdle false) (fun t => (t.cab 0).cmdTimer) = some none ∧
      undoing demoTables (.visitOpen 0 1 0 .reset) (fun t => ((t.vis 0).state, (t.ord 0).state)) =
        some (.none, .offered) ∧
      ∀ k ∈ [Take.visitOpen 1 1 0 .reset, .visitClose 1 1, .replace 1 1 0 0, .retire 1 1 0],
        undoing demoTables k (fun t => (t.vis 1).lastResult) = some (some ⟨2, 0x0B, 0⟩) := by decide +kernel

/-- The command timer after each transfer that is undone, a status record that took the machine on meanwhile included. -/
theorem test_undone_transfers :
    let u (m : Xfer) := demoTables.setCab 0 { demoCab with machine := m, holder := some 0, cmdTimer := some 9 }
    let left (m : Xfer) (undo : FloorUndo) :=
      undoing (u m) (.floor 0 5 .toOnline undo false) fun t => ((t.cab 0).machine, (t.cab 0).cmdTimer)
    (demoTables.grp 0).underTest = none ∧ left .xferOut .toBypass = some (.normal, none) ∧
      left .xferBack (.toOnline .bypass (some 0)) = some (.bypass, none) ∧
      left .xferBack (.toOnline .unsanctioned none) = some (.unsanctioned, none) ∧
      left .xferBack (.toOnline .xferOut (some 0)) = some (.xferOut, some 60) := by decide +kernel

/-- A faulted window write that ends at the generation's first byte, and one that begins at its second. -/
theorem test_spoiled_generation :
    let u := { demoTables with genLow := some 5, genHigh := some 6 }
    let left (a : Access) :=
      (nextOf (exec (.portAccessComplete (.fault 0))
        (State.flying (withTables u) ⟨a, [.write a.addr a.data], [true, true], .config⟩))).map fun t =>
          (t.tables.genLow, t.tables.genHigh)
    left (write .sup 0 1 [9, 9]) = some (none, some 6) ∧ left (write .sup 0 3 [9, 9]) = some (some 5, none) ∧
      left (write .sup 0 4 [9, 9]) = some (some 5, some 6) := by decide +kernel

/-- A set latch asserts ATTN until it is cleared; a copied entry at the attention severity keeps it. -/
theorem test_attn_after_fault_clear :
    let u := marked fun w => { w with latch := true, attn := true }
    let warned := { demoEntry 8 with entry := { (demoEntry 8).entry with severity := 2 } }
    demoBlock.attention = 2 ∧ taking u .faultClear (fun t => t.writer.attn) = some false ∧
      taking (marked fun w => { w with latch := true, attn := true, copy := [warned] }) .faultClear
        (fun t => t.writer.attn) = some true ∧
      taking (marked fun w => { w with attn := true, copy := [warned, demoEntry 9] }) (.consumed 9 1)
        (fun t => (t.writer.attn, t.writer.copy.length)) = some (false, 1) := by decide +kernel

/-- Cabinet 0 with `cmd` outstanding as floor sequence 5, or `sup` awaited as supervisor sequence 7. -/
def awaiting (u : Tables) (cmd : Option FloorCmd) (sup : Option SupCmd) : Tables :=
  u.setCab 0
    { demoCab with
      lastSeq := some 5, lastCmd := cmd, outstanding := cmd.isSome, supSeq := some 7, supCmd := sup.map fun k => (k, 0)
      supAwaited := sup.isSome, cmdTimer := some 9 }

/-- Each acknowledgment of R131 and R135. -/
theorem test_test_acknowledgments :
    let after (u : Tables) (r : FloorResult) (out : Bool) :=
      taking (if out then u.setCab 1 { demoCab with load := 0xFFFF } else u)
        (.status 0 ⟨.onlineInverter, .ok, r, 0, 5, 7⟩)
        fun t => ((t.str 0).test.state, (t.grp 0).underTest)
    (testing .requested).place 0 = some (0, 0) ∧
      after (awaiting (testing .requested) (some (.testStart 0)) none) .declined false = some (.idle, none) ∧
      after (awaiting (testing .stopping) (some (.testStop 0)) none) .accepted false = some (.idle, none) ∧
      after (awaiting (testing .suspendPending) none (some .testSuspend)) .accepted true = some (.suspended, some 0) ∧
      after (awaiting (testing .resumePending) none (some .testResume)) .accepted false = some (.running, some 0) ∧
      after (awaiting (testing .stopping) none (some .testStop)) .accepted false = some (.idle, none) := by
  decide +kernel

/-- The interlocks hold in the demo's floor with one live test, of a cabinet's own string or of another member's. -/
def testingAt (n : Str) (k : TestState) : Tables :=
  let d := demoTables
  (d.setGrp 0 { d.grp 0 with underTest := some n, testTimer := some 0 }).setTest n { TestFields.reset with state := k }

theorem test_interlocks_hold : ∀ n ∈ [(0 : Str), 1], (testingAt n .requested).Interlocked := by decide +kernel

/-- A machine that leaves NORMAL or LEARNING stops the group's live test, and a stale expiry its cabinet's; under a load
that the others cannot carry the re-evaluation has stopped a REQUESTED one before. -/
theorem test_stopped_tests :
    let heavy (u : Tables) := u.setCab 2 { demoCab with load := 0xFFFF }
    let k : Take := .status 0 ⟨.maintBypass, .ok, .accepted, 0, 4, 200⟩
    let moved (n : Str) (m : Xfer) (u : Tables) : Option (TestState × AbortCause) :=
      taking (u.setCab 0 { demoCab with machine := m }) k fun t => ((t.str n).test.state, (t.str n).test.cause)
    let stale (u : Tables) : Option (AbortCause × Option (SupCmd × Pos)) :=
      (nextOf (exec (.staleTimerExpiry 0) (withTables u))).map fun t =>
        ((t.tables.str 0).test.cause, (t.tables.cab 0).supCmd)
    (∀ n ∈ [(0 : Str), 1], ∀ m ∈ [Xfer.normal, .learning],
      moved n m (testingAt n .requested) = some (.stopping, .cabinet) ∧
        moved n m (heavy (testingAt n .requested)) = some (.stopping, .conditions)) ∧
      stale (testingAt 0 .requested) = some (.cabinet, some (.testStop, 0)) ∧
      stale (heavy (testingAt 0 .requested)) = some (.conditions, some (.testStop, 0)) := by decide +kernel

/-- Each row of Table 7.4(1), the pass capacity reached and missed by one, and a string with no rated capacity. -/
theorem test_measured_tests :
    let r (m : MeasMode) : MeasRec :=
      { seq := 10, mode := m, interval := 60, temperature := 250, chargeOut := 0, lowBlock := 2000 }
    let after (k : TestState) (m : MeasMode) := taking (testing k) (.measure 0 (r m)) fun t => (t.str 0).test.state
    let done (charge : Word32) (age : AgeState) :=
      let u := testing .running
      taking (u.setStr 0 { u.str 0 with age, test := { (u.str 0).test with charge } }) (.measure 0 (r .recharge))
        fun t => ((t.str 0).lastCapacity, (t.str 0).test.result, (t.str 0).age)
    ((testing .running).str 0).usable = false ∧ (testing .running).place 0 = some (0, 0) ∧
      (∀ x ∈ [(TestState.idle, MeasMode.testDischarge, TestState.idle), (.requested, .testDischarge, .running),
          (.requested, .float, .requested), (.running, .float, .running), (.running, .recharge, .idle),
          (.suspendPending, .testDischarge, .suspendPending), (.suspendPending, .testHold, .suspended),
          (.suspendPending, .float, .idle), (.suspended, .testDischarge, .suspended), (.suspended, .recharge, .idle),
          (.resumePending, .testDischarge, .running), (.resumePending, .recharge, .idle),
          (.stopping, .testDischarge, .stopping), (.stopping, .recharge, .idle)],
        after x.1 x.2.1 = some x.2.2) ∧
      done 12000 .unverified = some (some 80, .passed, .watch) ∧ done 11999 .healthy = some (some 79, .failed, .due) ∧
      done 11999 .retired = some (some 79, .failed, .retired) := by decide +kernel

/-- Each move of Table 7.6(1) by the suspend condition, and an expiry of the command timer in each test state. -/
theorem test_suspended_and_expired_tests :
    let heavy (u : Tables) := u.setCab 1 { demoCab with load := 0xFFFF }
    let state (u : Tables) := ((u.reevalCab 0).str 0).test.state
    let twice := (testing .running).setTest 0 { TestFields.reset with state := .running, suspensions := 2 }
    let expired (k : TestState) :=
      let u := (testing k).setCab 0 { demoCab with cmdTimer := some 0 }
      (nextOf (exec (.commandTimerExpiry 0) (withTables u))).map fun t => (t.tables.str 0).test.state
    demoTables.present 0 = true ∧ state (heavy (testing .requested)) = .stopping ∧
      state (heavy (testing .running)) = .suspendPending ∧ state (heavy (testing .resumePending)) = .suspendPending ∧
      state (heavy twice) = .stopping ∧ state (testing .suspendPending) = .resumePending ∧
      state (testing .suspended) = .resumePending ∧ state (testing .running) = .running ∧
      ∀ x ∈ [(TestState.requested, TestState.stopping), (.suspendPending, .stopping), (.resumePending, .stopping),
          (.stopping, .idle), (.running, .running), (.suspended, .suspended), (.idle, .idle)],
        expired x.1 = some x.2 := by decide +kernel

/-- Each entry of Table 4.8(1) that a re-evaluation brings, by the group's state before and after. -/
theorem test_group_transitions :
    let d := demoTables
    let last (u : Tables) := ((u.reevalCab 0).writer.copy.getLast?.map (·.entry.kind), ((u.reevalCab 0).grp 0).state)
    let was (k : GroupState) := d.setGrp 0 { d.grp 0 with state := k }
    (d.grp 0).underTest = none ∧ last (was .deficit) = (some JKind.marginRestored.code, .normal) ∧
      last (was .utilityLoss) = (some JKind.utilityRestored.code, .normal) ∧
      last (d.setCab 1 { demoCab with load := 0xFFFF }) = (some JKind.marginLost.code, .deficit) ∧
      last (d.setCab 1 { demoCab with report := some ⟨.onlineInverter, .lost⟩ }) =
        (some JKind.utilityLost.code, .utilityLoss) ∧
      (last (d.setCab 1 { demoCab with machine := .learning })).2 = .learning := by decide +kernel

/-! ## Records, the journal, the loader and recall -/

/-- The two forms of every optional field of a record, and the fullest spent list. -/
theorem test_record_forms :
    let l : List Word32 := (List.range 16).map fun i => BitVec.ofNat 32 (i + 1)
    let u := { (demoTables.setCab 1 { demoCab with supCmd := some (.testSuspend, 3) }) with spent := l }
    (u.cab 0).report = some ⟨.onlineInverter, .ok⟩ ∧ (u.cab 3).report = none ∧ (u.cab 0).supCmd = none ∧
      (u.cab 1).supCmd = some (.testSuspend, 3) ∧ u.writer.head = some ⟨10, 10, 2, false⟩ ∧ u.spent.length = 16 ∧
      word32At (u.jobWrite (.record .spentList)).2 60 = 16 ∧ (u.jobWrite (.record (.string 127))).1 = 0x57E0 := by
  decide +kernel

/-- The head with the lost mark set and just the space for two; before recall with 31 and with 32 held; NOMAP. -/
theorem test_journal_forms :
    let held (n : Nat) := (List.range n).map fun i => (⟨⟨0, .start, .info, 0, 0, 0⟩, i⟩ : HeldEntry)
    let tables (n : Nat) := marked fun w => { w with head := none, held := held n, stamp := n }
    let after (u : Tables) := (u.journal .cabStale .warning 0 0 0).writer
    let full := marked fun w => { w with head := some ⟨0, 0, 254, true⟩, held := held 30 }
    (after full).head = some ⟨2, 2, 256, false⟩ ∧ (after full).copy.length = 4 ∧ (after full).attn = true ∧
      (after (tables 31)).held.length = 32 ∧ (after (tables 31)).heldDrop = false ∧
      (after (tables 31)).urgent = [⟨.journalHeader, 32⟩] ∧
      (after (tables 32)).held.length = 32 ∧ (after (tables 32)).heldDrop = true ∧ (after (tables 32)).urgent = [] ∧
      after { tables 0 with active := none } = (tables 0).writer ∧
      (nextOf (exec (.writerWriteComplete .fault) (writing (.half 0) true))).map (fun s => s.tables.writer.attn) =
        some true := by decide +kernel

/-- The bytes of `demoBlock`. -/
def demoBytes : List Byte :=
  let w (n : Nat) : List Byte := le16 (BitVec.ofNat 16 n)
  let d (n : Nat) : List Byte := le32 (BitVec.ofNat 32 n)
  [1, 0, 1, 0, 0, 0, 0, 2] ++ zeros 8 ++
    (([0x1000, 0x1400, 0x2000, 0x1600, 0x1700, 0x1800, 0x4000] : List Nat).map d).flatten ++ zeros 20 ++ d 0x8000 ++
    [1, 3, 1, 0] ++ zeros 56 ++
    (([30, 60, 240, 900, 1800, 60, 1750, 80, 300, 500, 26280, 35040] : List Nat).map w).flatten ++ [5, 10, 85, 75] ++
    zeros 36 ++ (List.replicate 8 ([0, 20, 1] ++ zeros 5)).flatten ++
    ((List.range 3).map fun c => [1, 0] ++ w 250 ++ [1, byteOf c, 0xFF, 0xFF, 0xFF] ++ zeros 7).flatten ++ zeros 464 ++
    (List.replicate 128 (w 150)).flatten

/-- Record memory that holds `l` at 300h, for a read of it there. -/
def holding (l : List Byte) : Memory :=
  { cells := (l.zipIdx.filter fun x => x.1 != 0).map fun x => (0x300 + x.2, x.1), undefined := [], fresh := 0 }

/-- The last read of an apply of `bytes`, with `u` before it. -/
def lastApplyRead (u : Tables) (bytes : List Byte) : State :=
  { withTables { u with apply := some { todo := [], block := bytes.take 768, commands := [], orders := [] } } with
    grant := some (.loader (.block 3) 0x300 256), mem := holding (bytes.drop 768) }

/-- What the last read leaves: the result with its failing offset, the mode, the span. -/
def verdict (u : Tables) (bytes : List Byte) : Option ((ApplyResult × Word16) × RunMode × Nat) :=
  (nextOf (exec (.applyReadComplete .ok) (lastApplyRead u bytes))).map fun t =>
    ((t.tables.writer.applyResult, t.tables.writer.failOffset), t.tables.mode, t.tables.writer.span.length)

/-- APPLIED, with the STATE area moved, and without a configuration before. -/
theorem test_apply_applied :
    let moved := demoBytes.set 0x29 0xC0
    let s := lastApplyRead (demoTables.setVis 0 .reset) moved
    s.grant = some (.loader (.block 3) 0x300 256) ∧ s.tables.apply.map (·.todo) = some [] ∧
      (s.mem.takeBytes 0x300 256).1 = moved.drop 768 ∧ validate moved = none ∧
      s.tables.conflict (parseBlock moved) = none ∧ (parseBlock moved).bases.at' 6 = 0xC000 ∧
      { demoTables with active := none }.conflict (parseBlock moved) = none := by decide +kernel

/-- BUSY_STATE for the STATE area while a visit is open, and INVALID. -/
theorem test_apply_refused :
    verdict demoTables (demoBytes.set 0x29 0xC0) = some ((.busyState, 0x28), .running, 0) ∧
      verdict demoTables (demoBytes.set 0x80 121) = some ((.invalid, 0x80), .running, 0) := by decide +kernel

/-- Each read of an apply: none in progress, block 0 that adds re-reads, the re-reads, and each one's FAULT. -/
theorem test_apply_reads :
    let moved := (demoBytes.set 0x15 0x30).set 0x21 0x31
    let s (r : LoaderRead) (todo : List LoaderRead) : State :=
      { withTables (applying todo) with grant := some (.loader r 0x300 256), mem := holding (moved.take 256) }
    let ok (r : LoaderRead) (todo : List LoaderRead) :=
      (nextOf (exec (.applyReadComplete .ok) (s r todo))).bind fun t => t.tables.apply.map fun a =>
        (a.todo, a.block.length, a.commands.length, a.orders.length)
    let failed (r : LoaderRead) :=
      (nextOf (exec (.applyReadComplete .fault) (s r []))).map fun t => t.tables.writer.failOffset
    let idle := { demo with grant := some (.loader (.block 1) 0x300 256) }
    idle.tables.apply = none ∧ (nextOf (exec (.applyReadComplete .ok) idle)).isSome = true ∧
      ok (.block 0) [] = some ([.cabcmd 0x3000 0, .cabcmd 0x3000 1, .workord 0x3100], 256, 0, 0) ∧
      ok (.block 1) [.block 2] = some ([.block 2], 256, 0, 0) ∧
      ok (.cabcmd 0x3000 0) [.cabcmd 0x3000 1] = some ([.cabcmd 0x3000 1], 0, 256, 0) ∧
      ok (.workord 0x3100) [.block 1] = some ([.block 1], 0, 0, 256) ∧
      failed (.block 2) = some 0x200 ∧ failed (.cabcmd 0x3000 1) = some 0x014 ∧
      failed (.workord 0x3100) = some 0x020 := by
  decide +kernel

/-- What R53 finds first: a cabinet gone, moved to another group, its tested strings changed, an area moved; and no
conflict without a configuration. -/
theorem test_conflicts :
    let block (l : List (Nat × Byte)) := parseBlock (l.foldl (fun b x => b.set x.1 x.2) demoBytes)
    let d := demoTables.setVis 0 .reset
    (demoTables.conflict (block [(0x100, 0)]) = some 0x100 ∧ demoTables.conflict (block [(0x101, 1)]) = some 0x101) ∧
      (d.conflict (block [(0x100, 0), (0x15, 0x30)]) = none) ∧
      ((testing .running).setVis 0 .reset).conflict (block [(0x106, 5)]) = some 0x106 ∧
      demoTables.conflict (block [(0x110, 0), (0x15, 0x30)]) = some 0x14 ∧
      { demoTables with active := none }.conflict (block [(0x100, 0)]) = none := by decide +kernel

/-- Step 1's judgement: a read answered FAULT after one answered OK; the low end of a limit and one below it. -/
theorem test_block_judgement :
    recallBlock [some (demoBytes.take 256), none] = .error 0x100 ∧ validate (demoBytes.set 0x80 1) = some 0x80 ∧
      validate ((demoBytes.set 0x80 2).set 0x82 4) = some 0x82 ∧ validate (demoBytes.set 0x10 1) = some 0x10 := by
  decide +kernel

/-- A state of recall before the completion of `r`, with `got` answered and `l` in memory. -/
def stepping (u : Tables) (got : Got) (r : RecallRead) (l : List Byte) : State :=
  { withTables { u with mode := .recalling, recalling := some { todo := [], got, resumed := true } } with
    grant := some (.recallRead r 0x300 l.length), mem := holding l }

def recalled {α : Type} (s : State) (answer : MemAnswer) (f : Tables → α) : Option α :=
  (nextOf (exec (.recallReadComplete answer) s)).map fun t => f t.tables

/-- A string record of an age, a test state and a rated capacity. -/
def stringBytes (n age test : Byte) (rated : Nat) : List Byte :=
  record 32 ([n, age, test, 0] ++ le16 (BitVec.ofNat 16 rated))

/-- Step 3: capacities at the ends of their range, one active test of a group kept, an invalid record, a FAULT. -/
theorem test_recalled_strings :
    let page := stringBytes 0 1 2 10 ++ stringBytes 1 1 2 3000 ++ stringBytes 2 4 0 9 ++ stringBytes 9 0 0 9 ++
      stringBytes 4 5 0 9 ++ (stringBytes 5 0 0 9).set 31 0 ++ zeros 64
    let s := stepping demoTables (some page :: List.replicate 14 none) (.strings 15) (zeros 256)
    s.tables.recalling.map (·.got.length) = some 15 ∧ page.length = 256 ∧
      recalled s .fault (fun u => ((List.finRange 6).map fun n : Fin 6 => (u.str ⟨n.val, by omega⟩).age,
        [(u.str 0).test.state, (u.str 1).test.state], [(u.str 0).rated, (u.str 1).rated, (u.str 2).rated],
        (u.grp 0).underTest)) =
        some ([.healthy, .healthy, .retired, .unverified, .unverified, .unverified], [.stopping, .idle],
          [10, 3000, 150], some 0) := by decide +kernel

/-- Step 4: both sequences from a slot, the one TEST_STOP issued, none after a FAULT. -/
theorem test_recalled_commands :
    let u := testing .stopping
    let s := stepping u [some ((List.range 256).map byteOf)] (.commands 1) ((List.range 256).map byteOf)
    let f (u : Tables) := ((u.cab 0).supSeq, (u.cab 1).supSeq, (u.cab 16).lastSeq, (u.str 0).test.awaitSup)
    (u.str 0).test.state = .stopping ∧ u.place 0 = some (0, 0) ∧
      recalled s .ok f = some (some 9, some 24, some 0, some 9) ∧
      recalled s .fault f = some (some 9, some 24, none, some 9) := by decide +kernel

/-- Step 5: each recorded order state, an order IN_USE that names a console, an open visit, a state code of no visit. -/
theorem test_recalled_visits :
    let slots := (List.range 8).flatMap fun i => record 32 [0, 0, 60, 0, byteOf (i + 1)]
    let state (k bound n : Byte) := record 16 [k, bound, 0, 0, n]
    let states := state 0 0 1 ++ state 1 0xFF 2 ++ state 2 2 3 ++ state 3 0xFF 4 ++ state 4 0xFF 5 ++ state 1 0xFF 9 ++
      state 5 0 7 ++ zeros 16
    let visits := record 64 [1, 0, 1, 2, 8] ++ record 64 [4, 0, 0, 0, 8] ++ record 64 [3, 1, 0, 0, 9] ++ zeros 64
    let s := stepping demoTables [some slots, some states, some (le32 6 ++ le32 6 ++ zeros 56)] .visits visits
    visits.length = 256 ∧
      recalled s .ok (fun u => ((List.finRange 7).map fun n : Fin 7 => (u.ord ⟨n.val, by omega⟩).state,
        allConsoles.map fun t => ((u.vis t).state, (u.vis t).order), u.spent)) =
        some ([.empty, .offered, .spent, .spent, .withdrawn, .empty, .empty],
          [(.ended, 8), (.none, 0), (.ended, 3), (.none, 0)], [6, 3, 8]) ∧
      recalled s .fault (fun u => ((u.vis 0).state, (u.vis 2).order)) = some (.none, 3) := by decide +kernel

/-- A journal header of a position and a count. -/
def headerBytes (pos count : Nat) : List Byte :=
  le32 300 ++ le16 (BitVec.ofNat 16 pos) ++ le16 (BitVec.ofNat 16 count) ++ zeros 24

/-- Step 6: the largest usable header, one past each bound, and none. -/
theorem test_recalled_header :
    let u := marked fun w =>
      { w with head := none, copy := [], held := List.replicate 30 ⟨⟨0, .ageState, .notice, 0, 0, 0⟩, 0⟩, stamp := 1 }
    let s (l : Option (List Byte)) := stepping u [l] .consumedIndex [0, 0]
    (u.writer.head = none ∧ u.writer.pending = [] ∧ u.writer.heldDrop = false ∧ u.writer.held.length = 30 ∧
      ∀ g, (u.grp g).underTest = none) ∧
      recalled (s (some (headerBytes 255 256))) .ok (fun u => u.recalling.map (·.todo.length)) = some (some 16) ∧
      (∀ l ∈ [some (headerBytes 256 0), some (headerBytes 0 257), none], recalledHead l = none) ∧
      recalled (s (some (headerBytes 256 0))) .ok (fun u => (u.mode, u.writer.head, u.writer.copy.length)) =
        some (.running, some ⟨32, 32, 32, false⟩, 32) := by decide +kernel

/-- A consumed index that consumes an entry marks the journal header, one of distance 0 does not. -/
theorem test_recalled_consumption :
    let s (index : List Byte) :=
      stepping (marked fun w => { w with head := none, copy := [] }) [some (headerBytes 2 3)] .consumedIndex index
    let marks (index : List Byte) := recalled (s index) .ok fun u => u.writer.urgent
    marks [1, 0] = some [⟨.journalHeader, 0⟩] ∧ marks [255, 0] = some [] ∧ marks [3, 0] = some [] ∧
      recalled (s [1, 0]) .fault (fun u => u.writer.urgent) = some [] := by decide +kernel

/-- The ring read: an entry that stands, one whose sequence is not the one due, one whose read was answered FAULT. -/
theorem test_recalled_ring :
    let page := le32 298 ++ zeros 12 ++ le32 7 ++ zeros 236
    let got (index : Option (List Byte)) : Got := some (headerBytes 2 3) :: index :: some page :: List.replicate 14 none
    let s (index : Option (List Byte)) :=
      stepping (marked fun w => { w with head := none, copy := [] }) (got index) (.ring 15) (zeros 256)
    let f (u : Tables) := (u.lastConsumed, u.writer.copy.take 3 |>.map fun e => (e.pos, e.entry.seq, e.givenUp))
    (s none).tables.recalling.map (fun k => (k.got.drop 2).length) = some 15 ∧
      recalled (s none) .fault f = some (some 255, [(255, 297, true), (0, 298, false), (1, 299, true)]) ∧
      (⟨300, 2, 3, false⟩ : JHead).distance 1 = some 2 ∧ (⟨300, 2, 3, false⟩ : JHead).distance 3 = none := by
  decide +kernel

/-- A read of recall and a read of an apply cut off by RESET; a write of two runs, with each run in progress. -/
theorem test_reset_cuts_off :
    let runs := [MemOp.write 0x80FE [1], .write 0x8100 [3]]
    let f : InFlight := ⟨write .cab 0 0x80FE [1, 2, 3], runs, [true, false, true], .nothing⟩
    let cells (m : Memory) := ([0x80FE, 0x80FF, 0x8100] : List Nat).map m.look
    let after (g : Grant) := (nextOf (exec .reset { demo with grant := some g })).map fun t => cells t.mem
    let cut (k : Nat) := cells (Memory.reset.performFault runs k)
    after (.recallRead .header 0x8000 256) = some [some 0, some 0, some 0] ∧
      after (.loader (.block 0) 0x8000 256) = some [some 0, some 0, some 0] ∧
      (Grant.port f).ops = [MemOp.write 0x80FE [1]] ++ MemOp.write 0x8100 [3] :: [] ∧
      cut 0 = [none, some 0, some 0] ∧ cut 1 = [some 1, some 0, none] ∧ cut 2 = [some 1, some 0, none] := by
  decide +kernel

/-! ## Time -/

theorem test_expired_timers :
    (demo.tables.cab 0).staleTimer = some 0 ∧
      ((demoTables.setCab 0 { demoCab with cmdTimer := some 0, machine := .xferOut }).cab 0).cmdTimer = some 0 ∧
      (demo.tables.vis 0).endTimer = some 0 ∧ (demo.tables.vis 0).durTimer = some 0 ∧
      (demo.tables.vis 0).warnTimer = some 0 ∧ demo.tables.writer.flushTimer = some 0 ∧
      demoTables.boundSlot 0 = some 0 := by decide +kernel

/-- A command timer's expiry with a floor command of the cabinet in flight, and with another cabinet's. -/
theorem test_expiry_marks_the_grant :
    let k (c : Cab) (expired : Bool) : Take := .floor c 5 .toBypass .toBypass expired
    let s (c : Cab) : State :=
      State.flying (withTables (demoTables.setCab 0 { demoCab with cmdTimer := some 0 })) (landing (k c false))
    let grant (c : Cab) := (nextOf (exec (.commandTimerExpiry 0) (s c))).map (·.grant)
    ((s 0).tables.cab 0).cmdTimer = some 0 ∧ grant 0 = some (some (.port (landing (k 0 true)))) ∧
      grant 1 = some (some (.port (landing (k 1 false)))) := by decide +kernel

/-- The group test timer of a live test and of a STOPPING one. -/
theorem test_group_test_timer :
    ∀ x ∈ [TestState.running, .stopping],
      let u := (demoTables.setTest 0 { TestFields.reset with state := x }).setGrp 0
        { demoTables.grp 0 with underTest := some 0, testTimer := some 0 }
      (u.grp 0).testTimer = some 0 ∧ (u.grp 0).underTest = some 0 ∧ u.place 0 = some (0, 0) ∧ u.groupOf 0 = 0 ∧
        (x = .running → (u.str 0).test.state.live = true) ∧ (x = .stopping → (u.str 0).test.state = .stopping) := by
  decide +kernel

/-- A held number, a new one with place, and a new one that the oldest makes place for. -/
theorem test_spent_list :
    let l : List Word32 := (List.range 16).map fun i => BitVec.ofNat 32 (i + 1)
    l.length ≤ 16 ∧ (1 : Word32) ∈ l ∧ (17 : Word32) ∉ l ∧ l.length = 16 ∧ (l.drop 1).length < 16 := by decide

/-- Each measure at its due and its watch value and one short of it; a string with no rated capacity or no capacity. -/
theorem test_threshold_values :
    let e : StringEntry := { StringEntry.reset with rated := 100 }
    let due (e : StringEntry) := demoTables.meetsDue e
    let watch (e : StringEntry) := demoTables.meetsWatch e
    (due { e with discharged := 50000 } ∧ ¬ due { e with discharged := 49999 } ∧
      ¬ due { e with discharged := 50000, rated := 0 } ∧ due { e with thermal := 126144000 } ∧
      ¬ due { e with thermal := 126143999 } ∧ due { e with deepCount := 10 } ∧ ¬ due { e with deepCount := 9 } ∧
      due { e with lastCapacity := some 75 } ∧ ¬ due { e with lastCapacity := some 76 } ∧ ¬ due e) ∧
      watch { e with discharged := 30000 } ∧ watch { e with thermal := 94608000 } ∧ watch { e with deepCount := 5 } ∧
      watch { e with lastCapacity := some 85 } ∧ ¬ watch { e with lastCapacity := some 86 } := by decide +kernel

/-! ## The lines -/

theorem test_key_hypotheses :
    demo.tables.mode ≠ .inReset ∧ demo.tables.key = .service ∧ State.reset.tables.mode = .inReset := by decide

theorem test_reset_grants :
    (writing (.half 0) false).mem.wf = true ∧ demo.grant = none ∧
      (writing (.half 0) false).grant = some (.writer (.half 0) false 0xFFFFF [0x4B]) ∧
      (landing .nothing).ops = [.write (landing .nothing).acc.addr (landing .nothing).acc.data] ∧
      State.reset.tables.mode = .inReset := by decide +kernel

theorem test_power_hypotheses :
    demo.pfwLine = false ∧ demo.tables.mode = .running ∧ demo.tables.active ≠ none ∧
      (withTables { demoTables with active := none }).tables.active = none ∧
      (withTables recalling).tables.mode = .recalling ∧ State.reset.tables.mode = .inReset ∧
      (writing .haltedHeader false).grant = some (.writer .haltedHeader false 0xFFFFF [0x4B]) ∧
      ({ recallState .header 64 none with tables := { recalling with mode := .halting } }).tables.mode = .halting := by
  decide +kernel

/-- The drain's first order: the urgent set, the marks of an ended visit, the lazy set without the header. -/
theorem test_drain_order :
    let u := marked fun w =>
      { w with urgent := [⟨.string 0, 1⟩], lazySet := [.header, .group 0, .visit 0], stamp := 2 }
    u.writer.Sound ∧ (u.vis 0).state.isOpen = true ∧
      ((nextOf (exec .pfwAssert (withTables u))).map fun t => t.tables.writer.urgent.map (·.what)) =
        some [.string 0, .visit 0, .order 0, .spentList, .journalHeader, .group 0] := by
  decide +kernel

/-- The ends of a wait for the operation in progress, and of the drain with its header's second FAULT. -/
theorem test_halting_ends :
    let f : InFlight := ⟨write .sup 0 4 [0, 0], [.write 4 [0, 0]], [true, true], .config⟩
    let s : State := State.flying (withTables { demoTables with active := none, mode := .halting }) f
    let r : State := { recallState .header 64 none with tables := { recalling with mode := .halting } }
    let ends (i : Instr) (s : State) := (nextOf (exec i s)).map fun t => (t.tables.mode, t.tables.ready, t.sent.length)
    f.ops.all MemOp.inRange = true ∧
      (∀ a ∈ [AccessAnswer.ok, .fault 0], ends (.portAccessComplete a) s = some (.halted, true, 1)) ∧
      (∀ a ∈ [MemAnswer.ok, .fault], ends (.recallReadComplete a) r = some (.halted, true, 0)) ∧
      ends (.writerWriteComplete .fault) (writing .haltedHeader true) = some (.halted, true, 0) := by decide +kernel

/-! ## What every step keeps -/

/-- A state with every interlock, a TEST_STOP of its live test in flight, and the step that undoes it. -/
theorem test_interlocked_state :
    let k : Take := .floor 0 5 (.testStop 0) (.stopLive 0 { TestFields.reset with state := .running } true) false
    let u := (testingAt 0 .stopping).setTest 0 { TestFields.reset with state := .stopping, awaitFloor := some 5 }
    let s := State.flying (withTables u) (landing k)
    s.Interlocked ∧
      ((nextOf (exec (.portAccessComplete (.fault 0)) s)).map fun t => (t.tables.str 0).test.state) = some .running := by
  intro k u s
  refine ⟨⟨by decide +kernel, ?_, by decide +kernel, by decide +kernel⟩, by decide +kernel⟩
  intro f hf
  cases hf
  exact ⟨by decide +kernel, by decide +kernel⟩

/-- A step from a state with every invariant: the answer to the head of a queue. -/
theorem test_invariants_meet :
    (flying .nothing).mem.wf = true ∧ (flying .nothing).tables.Sound ∧ (flying .nothing).QueuesOk ∧
      (flying .nothing).HeadInFlight ∧ (flying .nothing).InMemory ∧
      (nextOf (exec (.portAccessComplete .ok) (flying .nothing))).isSome = true := by
  have hq : (flying .nothing).QueuesOk := by
    intro p
    cases p <;> exact ⟨by decide +kernel, by decide +kernel⟩
  have hs : (flying .nothing).tables.Sound := by decide +kernel
  refine ⟨by decide +kernel, hs, hq, ?_, ⟨hq, ?_, ?_, hs, ?_⟩, by decide +kernel⟩
  · intro f hf
    cases hf
    rfl
  · intro b hb
    cases hb
    exact test_demo_block_is_placed
  · intro a ha
    cases ha
  · intro g hg
    cases hg
    decide +kernel

/-- A byte changes at each of the commands that may change one, with a write in the grant. -/
theorem test_memory_changes :
    let w := { writing (.half 0) true with mem := Memory.reset }
    let at_ (i : Instr) (s : State) := (nextOf (exec i s)).map fun t => t.mem.look 0xFFFFF
    Memory.reset.look 0xFFFFF = some 0 ∧ w.mem.wf = true ∧ at_ (.portAccessComplete .ok) (flying .nothing) = some (some 0xAA) ∧
      at_ (.writerWriteComplete .ok) w = some (some 0x4B) ∧ at_ (.writerWriteComplete .fault) w = some none ∧
      at_ .reset w = some none := by decide +kernel

/-- The commands that change no record memory and no configuration have a next state. -/
theorem test_frames_of_the_last_statements :
    (nextOf (exec .clockAdvance demo)).isSome = true ∧
      (nextOf (exec .flushRequest (asked (write .sup 0 0x1808 [1])))).isSome = true := by decide +kernel

/-- The last read of an apply changes the configuration. -/
theorem test_apply_changes_the_configuration :
    (nextOf (exec (.applyReadComplete .ok) (lastApplyRead demoTables (demoBytes.set 0x80 31)))).map
      (fun t => t.tables.active.map (·.staleTime)) = some (some 31) := by decide +kernel

/-- The fourth block read of recall brings the configuration, answered OK. -/
theorem test_recall_brings_the_configuration :
    let got : Got := (List.range 3).map fun i => some (slice demoBytes (256 * i) 256)
    let u := { recalling with active := none, recalling := some { todo := [], got, resumed := false } }
    let s : State :=
      { withTables u with grant := some (.recallRead (.block 3) 0x300 256), mem := holding (demoBytes.drop 768) }
    let state (answer : MemAnswer) := recalled s answer fun u => u.active.map (·.generation)
    state .ok = some (some 1) ∧ state .fault = some none := by decide +kernel

end Sys2Proof.Tests
end

section
/-! Frames that fail a check of R4: which frames carry an access, and what FRAME_RECEIVED does with one that carries
none (R5). -/

namespace Sys2Proof.Machine

theorem byteAt_append_of_lt {l r : List Byte} {i : Nat} (hi : i < l.length) : byteAt (l ++ r) i = byteAt l i :=
  List.getD_append l r 0 i hi

theorem u8_eq_iff_byteAt_eq (l : List Byte) (i : Nat) (b : Byte) : u8 l i = b.toNat ↔ byteAt l i = b :=
  BitVec.toNat_inj

/-- The checks of R4 on the bytes before the frame check and on the frame check itself. -/
def FramePassesChecks (body check : List Byte) : Prop :=
  check = le16 (crc body) ∧
    ((byteAt body 0 = 1 ∧ body.length - 7 = 0) ∨
      (byteAt body 0 = 2 ∧ body.length - 7 = frameLen (byteAt body 6)))

/-- A frame with room for its fields carries an access exactly where it passes the checks of R4. -/
theorem parseFrame_append_isSome_iff (p : Port) {body check : List Byte} (hbody : 7 ≤ body.length)
    (hcheck : check.length = 2) : (parseFrame p (body ++ check)).isSome ↔ FramePassesChecks body check := by
  have hlong : ¬ (body ++ check).length < 9 := by simp; omega
  have hcut : (body ++ check).length - 2 = body.length := by simp [hcheck]
  have hlen : byteAt (body ++ check) 6 = byteAt body 6 := byteAt_append_of_lt (by omega)
  have hkind : u8 (body ++ check) 0 = u8 body 0 := congrArg BitVec.toNat (byteAt_append_of_lt (by omega))
  have hread : u8 body 0 = 1 ↔ byteAt body 0 = 1 := u8_eq_iff_byteAt_eq body 0 1
  have hwrite : u8 body 0 = 2 ↔ byteAt body 0 = 2 := u8_eq_iff_byteAt_eq body 0 2
  simp only [parseFrame, if_neg hlong, hcut, List.take_left, List.drop_left, List.length_drop, hlen, hkind,
    FramePassesChecks]
  by_cases hcrc : check = le16 (crc body)
  · rw [if_neg (not_not_intro hcrc)]
    split
    next h1 => simp [hcrc, hread.mp h1]
    next h2 => simp [hcrc, hwrite.mp h2]
    next h1 h2 =>
      simp only [mt hread.mpr h1, mt hwrite.mpr h2, Option.isSome_none, Bool.false_eq_true, false_and, or_self,
        and_false]
  · simp [hcrc]

/-- A frame that carries no access changes nothing, whether its link is held or not. -/
theorem exec_frameReceived_of_parseFrame_eq_none {p : Port} {frame : List Byte} (h : parseFrame p frame = none)
    (s : State) : exec (.frameReceived p frame) s = .next s := by
  simp only [exec, execFrameReceived, h, ite_self]

/-- A wrong frame check, a kind that is neither READ nor WRITE, data with a READ, or a WRITE's data of another length
than its length field: each fails the checks. -/
theorem not_framePassesChecks_of_fails {body check : List Byte}
    (hfails : check ≠ le16 (crc body) ∨ (byteAt body 0 ≠ 1 ∧ byteAt body 0 ≠ 2) ∨
      (byteAt body 0 = 1 ∧ body.length - 7 ≠ 0) ∨
      (byteAt body 0 = 2 ∧ body.length - 7 ≠ frameLen (byteAt body 6))) :
    ¬ FramePassesChecks body check := by
  rintro ⟨hcrc, ⟨hread, hcount⟩ | ⟨hwrite, hcount⟩⟩
  · simp [hcrc, hread, hcount] at hfails
  · simp [hcrc, hwrite, hcount] at hfails

end Sys2Proof.Machine

open Sys2Proof Sys2Proof.Machine

/-- Settles O4: a frame that fails a check of R4 carries no access, and such a frame changes nothing. -/
theorem failingFrameLeavesNoTrace : Obligations.FailingFrameLeavesNoTrace := by
  intro s p body check hbody hcheck kind count hfails
  have hnone : parseFrame p (body ++ check) = none := by
    rw [← Option.not_isSome_iff_eq_none, parseFrame_append_isSome_iff p hbody hcheck]
    exact not_framePassesChecks_of_fails hfails
  exact exec_frameReceived_of_parseFrame_eq_none hnone s

end

section
/-! The cabinet's status record: which codes are listed (Table 2.12(6)), the cabinet tracker's judgement of the record
(R68), and the grant of CABINET_STATUS. -/

namespace Sys2Proof.Machine

/-! ## Listed codes -/

theorem CabMode.ofCode_toNat_code (m : CabMode) : CabMode.ofCode m.code.toNat = some m := by cases m <;> rfl

theorem Utility.ofCode_toNat_code (v : Utility) : Utility.ofCode v.code.toNat = some v := by cases v <;> rfl

theorem CabMode.ofCode_eq_none_of_lt {n : Nat} (h : 5 < n) : CabMode.ofCode n = none :=
  match n, h with
  | _ + 6, _ => rfl

theorem Utility.ofCode_eq_none_of_lt {n : Nat} (h : 1 < n) : Utility.ofCode n = none :=
  match n, h with
  | _ + 2, _ => rfl

theorem FloorResult.ofCode_eq_none_of_lt {n : Nat} (h : 1 < n) : FloorResult.ofCode n = none :=
  match n, h with
  | _ + 2, _ => rfl

/-! ## The judgement (R68) -/

theorem u8_eq_cab_iff (d : List Byte) (i : Nat) (c : Cab) : u8 d i = c.val ↔ byteAt d i = byteOf c.val := by
  have hc : (byteOf c.val).toNat = c.val := Nat.mod_eq_of_lt (Nat.lt_trans c.isLt (by decide))
  rw [← u8_eq_iff_byteAt_eq, hc]

theorem parseStatus_of_listed {d : List Byte} {m : CabMode} {v : Utility} {f : FloorResult}
    (hmode : CabMode.ofCode (u8 d 1) = some m) (hutility : Utility.ofCode (u8 d 2) = some v)
    (hresult : FloorResult.ofCode (u8 d 3) = some f) :
    parseStatus d =
      some { mode := m, utility := v, result := f, load := word16At d 4, floorAck := byteAt d 6,
             supAck := byteAt d 7 } := by
  simp only [parseStatus, hmode, hutility, hresult]

/-- One unlisted code is enough. -/
theorem parseStatus_eq_none_of_unlisted {d : List Byte} (h : 5 < u8 d 1 ∨ 1 < u8 d 2 ∨ 1 < u8 d 3) :
    parseStatus d = none := by
  unfold parseStatus
  split
  next hmode hutility hresult =>
    obtain h | h | h := h
    · simp [CabMode.ofCode_eq_none_of_lt h] at hmode
    · simp [Utility.ofCode_eq_none_of_lt h] at hutility
    · simp [FloorResult.ofCode_eq_none_of_lt h] at hresult
  next => rfl

theorem Tables.judgeStatus_of_parse {u : Tables} {c : Cab} {d : List Byte} {r : StatusRec} (hcab : u8 d 0 = c.val)
    (hr : parseStatus d = some r) : u.judgeStatus c d = (u, .ok (.status c r)) := by
  simp only [Tables.judgeStatus, hcab, ne_eq, not_true_eq_false, if_false, hr]

theorem Tables.judgeStatus_of_fails {u : Tables} {c : Cab} {d : List Byte}
    (h : u8 d 0 ≠ c.val ∨ parseStatus d = none) : u.judgeStatus c d = (u, .error (.shape, none)) := by
  by_cases hcab : u8 d 0 = c.val
  · simp only [Tables.judgeStatus, h.resolve_left (not_not_intro hcab), ite_self, Tables.refuse]
  · simp only [Tables.judgeStatus, if_pos hcab, Tables.refuse]

/-! ## The grant -/

/-- What a grant makes of the owning unit's judgement: the access in flight, or the refusal answered at once. -/
def State.grantJudged (s : State) (a : Access) : Judged → Host.Outcome State Fault Refusal
  | (v, .error d) => .next (s.refusedAtGrant v a d.1 d.2)
  | (v, .ok take) => .next (s.inFlightWrite v a take)

@[simp] theorem State.grantJudged_ok (s : State) (a : Access) (v : Tables) (take : Take) :
    s.grantJudged a (v, .ok take) = .next (s.inFlightWrite v a take) := rfl

@[simp] theorem State.grantJudged_error (s : State) (a : Access) (v : Tables) (d : Denial) :
    s.grantJudged a (v, .error d) = .next (s.refusedAtGrant v a d.1 d.2) := rfl

/-- A cabinet's own status record, its check byte right, is granted as the cabinet tracker judges it. -/
theorem exec_cabinetStatus_eq_grantJudged {s : State} {a : Access} {c : Cab}
    (hwrite : s.Writes a .cabstat (32 * c.val) 32) (hcab : s.FromCabinet a c) (hcheck : checkHolds a.data = true) :
    exec .cabinetStatus s = s.grantJudged a (s.tables.judgeStatus c a.data) := by
  obtain ⟨hport, htag, hpresent⟩ := hcab
  have hfits : 32 * c.val + 32 ≤ Area.cabstat.size := by
    have : Area.cabstat.size = 1024 := rfl
    omega
  have hunit : targetAt (.area .cabstat) (32 * c.val) 32 = some (.status c) := by
    simp [targetAt, recordAt]
  have hslot : (s.tables.slotCheck a (.status c)).1 = true := by
    simp [Tables.slotCheck, s.tables.tagCab_of_tag a c htag hpresent]
  exact s.grant_typed a .cabstat _ 32 .cabinetStatus (.status c) hwrite (by decide) hfits (by simp [hport])
    (by rw [hport]; rfl) (by rw [hport]; rfl) hunit hslot fun _ => hcheck

end Sys2Proof.Machine

open Sys2Proof Sys2Proof.Machine

/-- Settles O15: the grant follows the cabinet tracker's judgement, which reads the four checked fields of the record
and nothing of the tables. -/
theorem statusRecordIsGranted : Obligations.StatusRecordIsGranted := by
  intro s a c hwrite hcab hcheck
  rw [exec_cabinetStatus_eq_grantJudged hwrite hcab hcheck]
  refine ⟨fun m v f hnumber hmode hutility hresult => ?_, fun hfails => ?_⟩
  · have hm : u8 a.data 1 = m.code.toNat := congrArg BitVec.toNat hmode
    have hv : u8 a.data 2 = v.code.toNat := congrArg BitVec.toNat hutility
    have hf : FloorResult.ofCode (u8 a.data 3) = some f := by
      rw [u8, hresult]
      cases f <;> rfl
    have hparse := parseStatus_of_listed (hm ▸ m.ofCode_toNat_code) (hv ▸ v.ofCode_toNat_code) hf
    rw [Tables.judgeStatus_of_parse ((u8_eq_cab_iff _ _ _).mpr hnumber) hparse, State.grantJudged_ok]
    rfl
  · have hjudge : u8 a.data 0 ≠ c.val ∨ parseStatus a.data = none :=
      hfails.imp (mt (u8_eq_cab_iff _ _ _).mp) parseStatus_eq_none_of_unlisted
    rw [Tables.judgeStatus_of_fails hjudge, State.grantJudged_error]

end
